-- ==== Sys2Proof/Word.lean ====
section
/-!
DEFINITION. The widths SMDEC's registers, ports and cells have (spec/10_state.md, spec/45_interface.md R150).
All values are unsigned (R10).
-/

namespace Sys2Proof

/-- One bit: a `RAW` cell, a one-bit register. -/
abbrev Bit := BitVec 1

/-- Eight bits: a sample, a `DEC` cell, `PTYPE`. -/
abbrev Byte := BitVec 8

/-- Sixteen bits: `PLEN`, `CRC`. -/
abbrev Half := BitVec 16

/-- Thirty-two bits: the meter identifiers and the uptime. -/
abbrev Word := BitVec 32

/-- The sequencer's decode key `DKEY` (R89). -/
abbrev Key := BitVec 28

/-- The sequencer phase `PHASE` (R22, R88). -/
abbrev Phase := BitVec 4

end Sys2Proof
end

