-- ==== Sys2Proof/Config.lean ====
section
/-!
DEFINITION. What an implementation or the host fixes: the open width `P_META_W`
(spec/00_scope.md R7), the configuration record and the port bundles
(spec/10_state.md R28, spec/45_interface.md R150), and the free values: constants without a body,
of which nothing can be proved but that they exist.
The parameters with a value (R7, R8) stand in Machine/Params.lean.
-/

namespace Sys2Proof

/-- OPEN PARAMETER. `P_META_W` less its minimum of 1 (R7). A constant without a body, so whatever is
proved holds for every width. Log 1; safe. -/
opaque Config.pMetaWLess1 : Nat

/-- `P_META_W`, the width in bits of the metadata token: open, at least 1 (R7). Log 1. -/
abbrev Config.pMetaW : Nat := Config.pMetaWLess1 + 1

/-- The opaque metadata token (R23): `META`, `s_meta` and `m_meta`. -/
abbrev Token := BitVec Config.pMetaW

/-- The filter configuration: the registers `CFG_*`, and equally the pins `cfg_*` that RESET loads
into them (R28, R150, R190). -/
structure FilterConfig where
  /-- `CFG_CRC_EN`, pin `cfg_crc_enabled` -/
  crcEn   : Bit
  /-- `CFG_CRC_INIT`, pin `cfg_crc_init` -/
  crcInit : Half
  /-- `CFG_METER_ID`, pin `cfg_meter_id` -/
  meterId : Word
  /-- `CFG_PTYPE`, pin `cfg_packet_type` -/
  ptype   : Byte
  /-- `CFG_PLEN`, pin `cfg_packet_length` -/
  plen    : Half
deriving DecidableEq, Repr, Inhabited

/-- The input pins at one clock edge (R150). -/
structure Pins where
  /-- `rst` -/
  rst     : Bool
  /-- `s_valid` -/
  sValid  : Bool
  /-- `s_sample` -/
  sSample : Byte
  /-- `s_last` -/
  sLast   : Bool
  /-- `s_meta` -/
  sMeta   : Token
  /-- `m_ready` -/
  mReady  : Bool
  /-- the `cfg_*` pins -/
  cfg     : FilterConfig
deriving DecidableEq, Repr, Inhabited

/-- The data outputs of the output port (R150): the byte, `m_last`, the metadata and the sideband. -/
structure OutBus where
  /-- `m_byte` -/
  byte         : Byte
  /-- `m_last` -/
  last         : Bit
  /-- `m_meta` -/
  token        : Token
  /-- `m_count` -/
  count        : BitVec 17
  /-- `m_packet_type` -/
  packetType   : Byte
  /-- `m_packet_length` -/
  packetLength : Half
  /-- `m_layout` -/
  layout       : BitVec 2
  /-- `m_meter_id` -/
  meterId      : Word
  /-- `m_meter_id_secondary` -/
  meterId2     : Word
  /-- `m_up_time` -/
  upTime       : Word
deriving DecidableEq, Repr, Inhabited

/-- FREE VALUE. What `RAW[i]` holds while nothing has written it ("unspecified", R41). Log 5; safe. -/
opaque Config.rawAtReset : Nat → Bit

/-- FREE VALUE. What `DEC[i]` holds while nothing has written it ("unspecified", R41). Log 5; safe. -/
opaque Config.decAtReset : Nat → Byte

/-- FREE VALUE. What the data outputs show at the given edge while `m_valid = 0` ("unspecified",
R162). Log 11; safe. -/
opaque Config.undriven : Nat → OutBus

end Sys2Proof
end

