-- ==== Sys2Proof/Machine/Params.lean ====
section
/-!
DEFINITION. The parameters with a value and the fixed constants (spec/00_scope.md R7, R8, R9), the phase
codes (spec/30_encoding.md R88) and the layout codes (spec/10_state.md R31). The spec calls its
numeric literals unaudited (R8), so each stands here once.
-/

namespace Sys2Proof.Machine

/-- `P_DATA_BASE`, the index in `RAW` of the first data bit of decoded byte 0 (R7; the spec's decision
D1, log 2). -/
def pDataBase : Nat := 2

/-- `STRIDE_G4` (R8) -/
def strideG4 : BitVec 4 := 10

/-- `STRIDE_G5` (R8) -/
def strideG5 : BitVec 4 := 11

/-- `MIN_SAMPLES` (R8) -/
def minSamples : Nat := 9

/-- `HDR_LEN` (R8) -/
def hdrLen : Nat := 4

/-- `CRC_POLY` (R8) -/
def crcPoly : Half := 0x1021

/-- `CRC_XOROUT` (R8) -/
def crcXorOut : Half := 0x0000

/-- `T55` (R8) -/
def t55 : Byte := 0x55

/-- `L55_LEN` (R8) -/
def l55Len : Half := 0x0023

/-- `TD5` (R8) -/
def td5 : Byte := 0xD5

/-- `OFF55_UPTIME` (R8) -/
def off55Uptime : Nat := 18

/-- `OFF55_METER` (R8) -/
def off55Meter : Nat := 24

/-- `OFFD5_METER2` (R8) -/
def offD5Meter2 : Nat := 5

/-- `OFFD5_METER` (R8) -/
def offD5Meter : Nat := 9

/-- `L_MAX` (R9) -/
def lMax : Nat := 65535

/-- `DEC_CAP` (R9) -/
def decCap : Nat := hdrLen + lMax

/-- `RAW_CAP` (R9) -/
def rawCap : Nat := pDataBase + (decCap - 1) * strideG5.toNat + 8

/-! The phases (R88). -/

def phIdle : Phase := 0x0
def phCapture : Phase := 0x1
def phGuard : Phase := 0x2
def phGen : Phase := 0x3
def phHdr : Phase := 0x4
def phHparse : Phase := 0x5
def phLchk : Phase := 0x6
def phPay : Phase := 0x7
def phCrci : Phase := 0x8
def phCrcb : Phase := 0x9
def phCrcc : Phase := 0xA
def phExtract : Phase := 0xB
def phFilter : Phase := 0xC
def phEmit : Phase := 0xD

/-! The layouts (R31). -/

def layoutNone : BitVec 2 := 0
def layoutL55 : BitVec 2 := 1
def layoutLd5 : BitVec 2 := 2

end Sys2Proof.Machine
end

