-- ==== Sys2Proof/Syntax.lean ====
section
/-!
DEFINITION. The operations of SMDEC, one constructor per row of spec/opcode_table.json, and the
drop causes (spec/60_exceptions.md R171).
An operation's operands are registers, buffer cells and pins, all of them state (the rules'
"Operands" lines); DROP alone carries an operand of its own, the cause.
-/

namespace Sys2Proof

/-- The drop causes (R171), in the order of their codes 0 to 7. -/
inductive DropCause where
  /-- NONE: the current or last message was not dropped -/
  | none
  /-- SHORT: fewer than 9 samples -/
  | short
  /-- RAW_OOR: a data bit past the last sample -/
  | rawOor
  /-- LEN: the coarse length check failed -/
  | len
  /-- CRC_RANGE: no room for the stored CRC -/
  | crcRange
  /-- LAYOUT: no layout matches -/
  | layout
  /-- DEC_OOR: a field past the decoded bytes -/
  | decOor
  /-- FILTER: the acceptance filter said no -/
  | filter
deriving DecidableEq, Repr

/-- The operations, in the order of spec/opcode_table.json (R3, R88). -/
inductive Instr where
  | captureFirst
  | capture
  | guard
  | genG4
  | genG5
  | demapHdr
  | hdrParse
  | lchk
  | demapPay
  | crcInit
  | crcByte
  | crcCmp
  | extractL55
  | extractLd5
  | extractReject
  | filter
  | emitByte
  | reset
  | drop (cause : DropCause)
deriving DecidableEq, Repr

end Sys2Proof
end

