-- ==== Sys2Proof/Machine/State.lean ====
section
/-!
DEFINITION. The state of SMDEC (spec/10_state.md R20 to R41, spec/45_interface.md R150), the reasons a
step can stop, and the state right after reset (R41).
-/

namespace Sys2Proof.Machine

/-- A buffer of `w`-bit cells: the cells written so far, as index and content, with indices strictly
rising (`Memory.wf`). A cell not listed has not been written. For `w = 8` this is a list of
Host.Cell. -/
abbrev Memory (w : Nat) := List (Nat × BitVec w)

structure State where
  /-- `PHASE` (R22) -/
  phase     : Phase
  /-- `META` (R23) -/
  token     : Token
  /-- `N` (R24); a natural number, as R24 allows -/
  n         : Nat
  /-- `GEN` (R25): 0 is G4, 1 is G5 -/
  gen       : Bit
  /-- `STRIDE` (R25) -/
  stride    : BitVec 4
  /-- `K` (R26); a natural number, as R11 says of indices. Log 12. -/
  k         : Nat
  /-- `PTYPE` (R27) -/
  ptype     : Byte
  /-- `PLEN` (R27) -/
  plen      : Half
  /-- `CRC` (R30) -/
  crc       : Half
  /-- `CRC_MATCH` (R30) -/
  crcMatch  : Bit
  /-- `LAYOUT` (R31) -/
  layout    : BitVec 2
  /-- `METER_ID` (R31) -/
  meterId   : Word
  /-- `METER_ID2` (R31) -/
  meterId2  : Word
  /-- `UP_TIME` (R31) -/
  upTime    : Word
  /-- `ACCEPT` (R32) -/
  accept    : Bit
  /-- `DROP_CAUSE` (R34) -/
  dropCause : DropCause
  /-- `CFG_*` (R28). R21 has a model take `CFG` as a parameter of the step relation, and R190 has RESET
  write it; a field that RESET alone writes is the model's reading of the two. DESIGN CHOICE, log
  25. -/
  cfg       : FilterConfig
  /-- `RAW` (R35) -/
  raw       : Memory 1
  /-- `DEC` (R36) -/
  dec       : Memory 8
  /-- the input pins at the coming edge (R150) -/
  pins      : Pins
  /-- MODEL: the input pins at the edges after the coming one; past its end the pins keep their
  level. DESIGN CHOICE, log 8. -/
  schedule  : List Pins
  /-- MODEL: the transfers made on the output port, oldest first (R11 `emit`). Log 10. -/
  outbox    : List OutBus
  /-- MODEL: the number of steps taken, the argument of the free value `Config.undriven`. Log 11. -/
  edges     : Nat
deriving DecidableEq, Repr

/-- Why a step stops with a fault. No run from reset meets one. -/
inductive Fault where
  /-- `PHASE` is 0xE or 0xF. Raised by the step; the spec says it "must treat that as a fault"
  (R90). Safe. -/
  | reservedPhase (phase : Phase)
  /-- `RAW` has no cell of this index (R50). Raised by the demap operations when `N` exceeds
  `RAW_CAP`, which capture never lets happen (R53). Log 15. Safe. -/
  | noRawCell (index : Nat)
  /-- `DEC` has no cell of this index (R50). Raised by DEMAP_HDR, DEMAP_PAY, CRC_BYTE and EMIT_BYTE
  when `K` exceeds its range, which the sequencer never lets happen (R26). Log 15. Safe. -/
  | noDecCell (index : Nat)
deriving DecidableEq, Repr

/-- Why a step is refused. -/
inductive Refusal where
  /-- Raised by `exec` for an operation that has no meaning yet; no arm does. Safe. -/
  | notModelled (mnemonic : String)
deriving DecidableEq, Repr

/-- A configuration of zeros: every predicate at its "match any" sentinel. DESIGN CHOICE, log 3; the
spec gives no default. -/
def cfgZero : FilterConfig :=
  { crcEn := 0, crcInit := 0, meterId := 0, ptype := 0, plen := 0 }

/-- Every input pin low. DESIGN CHOICE, log 9. -/
def pinsLow : Pins :=
  { rst := false, sValid := false, sSample := 0, sLast := false, sMeta := 0, mReady := false,
    cfg := cfgZero }

/-- The state right after a RESET that loaded `cfg` (R41). The spec fixes `PHASE`, `DROP_CAUSE` and
`CFG_*`; the working registers are unspecified and zero here (DESIGN CHOICE, log 4; unsafe), and
neither buffer has been written (log 5). -/
def State.resetWith (cfg : FilterConfig) : State :=
  { phase := phIdle, token := 0, n := 0, gen := 0, stride := 0, k := 0, ptype := 0, plen := 0,
    crc := 0, crcMatch := 0, layout := layoutNone, meterId := 0, meterId2 := 0, upTime := 0,
    accept := 0, dropCause := .none, cfg := cfg, raw := [], dec := [], pins := pinsLow,
    schedule := [], outbox := [], edges := 0 }

/-- The state right after reset, of the block whose `cfg_*` pins were low (log 3). -/
def State.reset : State :=
  State.resetWith cfgZero

end Sys2Proof.Machine
end

