-- ==== Sys2Proof/Machine/Ops.lean ====
section
/-!
DEFINITION. The named operations over the buffers and registers: reading and writing one cell
(spec/20_memory.md R51, R55), beats (spec/45_interface.md R151, R155, R162), and TAKING A DROP, the
block's one exception (spec/60_exceptions.md R172). There is no return from a drop (R177).
-/

namespace Sys2Proof.Machine

/-! ## Buffers -/

/-- What has been written to a cell, if anything has. -/
def Memory.read? {w : Nat} : Memory w → Nat → Option (BitVec w)
  | [], _ => none
  | (a, v) :: rest, i => if a = i then some v else Memory.read? rest i

/-- Write one cell; indices stay strictly rising. -/
def Memory.write {w : Nat} : Memory w → Nat → BitVec w → Memory w
  | [], i, b => [(i, b)]
  | (a, v) :: rest, i, b =>
    if i < a then (i, b) :: (a, v) :: rest
    else if i = a then (i, b) :: rest
    else (a, v) :: Memory.write rest i b

/-- The canonical form: indices strictly rising, every one of them an index the buffer has. -/
abbrev Memory.wf {w : Nat} (cap : Nat) (m : Memory w) : Prop :=
  m.Pairwise (fun p q => p.1 < q.1) ∧ ∀ p ∈ m, p.1 < cap

/-- `MemRead(RAW, i)` (R51): what was last written; a cell nothing has written holds a free value
(R41, log 5). -/
def State.rawCell (s : State) (i : Nat) : Bit :=
  (Memory.read? s.raw i).getD (Config.rawAtReset i)

/-- `MemRead(DEC, i, 1)` (R56): what was last written; a cell nothing has written holds a free value
(R41, log 5). -/
def State.decCell (s : State) (i : Nat) : Byte :=
  (Memory.read? s.dec i).getD (Config.decAtReset i)

/-- `RAW[i] <- b` (R153, R154). -/
def State.storeRaw (s : State) (i : Nat) (b : Bit) : State :=
  { s with raw := Memory.write s.raw i b }

/-- `MemWrite(DEC, i, 1, v)` (R55). -/
def State.storeDec (s : State) (i : Nat) (v : Byte) : State :=
  { s with dec := Memory.write s.dec i v }

/-! ## The sequencer and its exception -/

/-- `PHASE <- p` (R11). -/
def State.toPhase (s : State) (p : Phase) : State :=
  { s with phase := p }

/-- TAKING A DROP (R172): the cause is recorded, the block returns to IDLE, and nothing else is
written. -/
def takeDrop (cause : DropCause) (s : State) : State :=
  { s with dropCause := cause, phase := phIdle }

/-- `raise Drop(cause)` (R11, R172): it replaces the rest of the raising operation, so `s` is the
state at the raise (R176). -/
def raiseDrop (cause : DropCause) (s : State) : Host.Outcome State Fault Refusal :=
  .next (takeDrop cause s)

/-! ## The handshakes -/

/-- `s_ready` (R155). -/
def State.sReady (s : State) : Bool :=
  !s.pins.rst && (s.phase == phIdle || s.phase == phCapture)

/-- An input beat passes at the coming edge (R151). -/
def State.inputBeat (s : State) : Bool :=
  !s.pins.rst && s.pins.sValid && s.sReady

/-- `m_valid` (R162). -/
def State.mValid (s : State) : Bool :=
  !s.pins.rst && s.phase == phEmit

/-- An output beat passes at the coming edge (R151). -/
def State.outputBeat (s : State) : Bool :=
  !s.pins.rst && s.mValid && s.pins.mReady

end Sys2Proof.Machine
end

