-- ==== Sys2Proof/Machine/Control.lean ====
section
/-!
DEFINITION. RESET (spec/70_reset_and_hazards.md R190) and DROP (spec/60_exceptions.md R172).
-/

namespace Sys2Proof.Machine

/-- The 3-bit code `DROP_CAUSE` holds for a cause (R171). -/
def dropCode : DropCause → BitVec 3
  | .none => 0
  | .short => 1
  | .rawOor => 2
  | .len => 3
  | .crcRange => 4
  | .layout => 5
  | .decOor => 6
  | .filter => 7

/-- RESET (R190): `PHASE`, `DROP_CAUSE` and `CFG_*`; everything else keeps what it held (log 6).
`CFG_*` is state, and not a parameter as R21 has it (DESIGN CHOICE, log 25). -/
def execReset (s : State) : Host.Outcome State Fault Refusal :=
  .next { s with phase := phIdle, dropCause := .none, cfg := s.pins.cfg }

/-- DROP (R172). -/
def execDrop (cause : DropCause) (s : State) : Host.Outcome State Fault Refusal :=
  raiseDrop cause s

end Sys2Proof.Machine
end

