-- ==== Sys2Proof/Machine/Operands.lean ====
section
/-!
DEFINITION. The operand forms: a sample's truth value (spec/00_scope.md R12), the bit cursor
(spec/10_state.md R37), byte assembly (spec/30_encoding.md R76), the big-endian reads of the decoded bytes
and their guard (spec/20_memory.md R56, R58), and the values on the output port
(spec/45_interface.md R160, R161, R162).
-/

namespace Sys2Proof.Machine

/-- `bit(s)` (R12): any non-zero sample is a 1. -/
def bitOf (sample : Byte) : Bit :=
  if sample = 0 then 0 else 1

/-- `STRIDE` of a generation (R72). -/
def strideOf (gen : Bit) : BitVec 4 :=
  if gen = 0 then strideG4 else strideG5

/-- The bit cursor `P_DATA_BASE + K * STRIDE` (R37). -/
def State.bitCursor (s : State) : Nat :=
  pDataBase + s.k * s.stride.toNat

/-- One round of byte assembly (R76): the new bit enters bit 7. -/
def shiftInBit (acc : Byte) (b : Bit) : Byte :=
  (acc >>> 1) ||| (b.setWidth 8 <<< 7)

/-- Byte assembly (R76): the data bits in read order, the first read becoming bit 0. -/
def assembleBits (bits : List Bit) : Byte :=
  bits.foldl shiftInBit 0

/-- The byte whose data bits are `RAW[c .. c+7]` (R76, R103). -/
def State.byteAtCursor (s : State) (c : Nat) : Byte :=
  assembleBits ([0, 1, 2, 3, 4, 5, 6, 7].map (fun j => s.rawCell (c + j)))

/-- `HDR_LEN + PLEN`, the number of bytes the message decodes to (R79). -/
def State.decLen (s : State) : Nat :=
  hdrLen + s.plen.toNat

/-- `MemRead(DEC, i, 2)` (R56, R58). -/
def State.dec16 (s : State) (i : Nat) : Half :=
  s.decCell i ++ s.decCell (i + 1)

/-- `MemRead(DEC, i, 4)` (R56, R58, R83). -/
def State.dec32 (s : State) (i : Nat) : Word :=
  s.dec16 i ++ s.dec16 (i + 2)

/-- The guard of `DecReadChecked(i, n)` (R56): the read stays inside the decoded length. -/
def State.decReadable (s : State) (i n : Nat) : Bool :=
  !decide (s.decLen < i + n)

/-- `m_last` (R160): byte `K` is the packet's last. -/
def State.lastByte (s : State) : Bool :=
  s.k == s.decLen - 1

/-- The values the block drives on the output port in phase EMIT (R160, R161). -/
def State.driven (s : State) : OutBus :=
  { byte := s.decCell s.k, last := if s.lastByte then 1 else 0, token := s.token,
    count := BitVec.ofNat 17 s.decLen, packetType := s.ptype, packetLength := s.plen,
    layout := s.layout, meterId := s.meterId, meterId2 := s.meterId2, upTime := s.upTime }

/-- The data outputs (R161, R162): driven while `m_valid = 1`, and a free value otherwise. -/
def State.outBus (s : State) : OutBus :=
  if s.mValid then s.driven else Config.undriven s.edges

end Sys2Proof.Machine
end

