-- ==== Sys2Proof/Machine/Flags.lean ====
section
/-!
DEFINITION. The flags and the predicates behind them: `CRC_MATCH` (spec/42_crc.md R123) with the CRC
arithmetic (R120), and `ACCEPT` (spec/44_filter.md R140) with its four predicates (R141 to R144).
-/

namespace Sys2Proof.Machine

/-- A truth value as a one-bit register. -/
def flag (b : Bool) : Bit :=
  if b then 1 else 0

/-- One CRC round (R120): shift left, and if the top bit was set XOR with the polynomial. -/
def crcRound (crc : Half) : Half :=
  if crc.getLsbD 15 then (crc <<< 1) ^^^ crcPoly else crc <<< 1

/-- `n` CRC rounds. -/
def crcRounds : Nat → Half → Half
  | 0, crc => crc
  | n + 1, crc => crcRounds n (crcRound crc)

/-- Fold one byte into the CRC (R120, R122): the byte into the high byte, then 8 rounds. -/
def foldCrcByte (crc : Half) (b : Byte) : Half :=
  crcRounds 8 (crc ^^^ (b.setWidth 16 <<< 8))

/-- `crc16(init, b_0 .. b_{m-1})` (R120). -/
def crc16 (init : Half) (bytes : List Byte) : Half :=
  bytes.foldl foldCrcByte init ^^^ crcXorOut

/-- `p_crc` (R141). -/
def crcPredicate (cfg : FilterConfig) (crcMatch : Bit) : Bool :=
  crcMatch == 1 || cfg.crcEn == 0

/-- `p_meter` (R142). -/
def meterPredicate (cfg : FilterConfig) (meterId meterId2 : Word) : Bool :=
  meterId == cfg.meterId || meterId2 == cfg.meterId || cfg.meterId == 0

/-- `p_len` (R143). -/
def lengthPredicate (cfg : FilterConfig) (plen : Half) : Bool :=
  plen == cfg.plen || cfg.plen == 0

/-- `p_type` (R144). -/
def typePredicate (cfg : FilterConfig) (ptype : Byte) : Bool :=
  ptype == cfg.ptype || cfg.ptype == 0

/-- The acceptance filter (R140): all four predicates hold. -/
def accepts (cfg : FilterConfig) (crcMatch : Bit) (meterId meterId2 : Word) (plen : Half)
    (ptype : Byte) : Bool :=
  crcPredicate cfg crcMatch && meterPredicate cfg meterId meterId2 && lengthPredicate cfg plen &&
    typePredicate cfg ptype

/-- The filter on the block's registers (R140). -/
def State.accepted (s : State) : Bool :=
  accepts s.cfg s.crcMatch s.meterId s.meterId2 s.plen s.ptype

end Sys2Proof.Machine
end

