-- ==== Sys2Proof/Machine/Crc.lean ====
section
/-!
DEFINITION. The CRC Verifier (spec/42_crc.md).
-/

namespace Sys2Proof.Machine

/-- CRC_INIT (R121). -/
def execCrcInit (s : State) : Host.Outcome State Fault Refusal :=
  if s.plen.toNat < 2 then raiseDrop .crcRange s
  else .next { s with crc := s.cfg.crcInit, k := hdrLen,
                      phase := if s.plen.toNat = 2 then phCrcc else phCrcb }

/-- CRC_BYTE (R122). -/
def execCrcByte (s : State) : Host.Outcome State Fault Refusal :=
  if decCap ≤ s.k then .fault (.noDecCell s.k)
  else .next { s with crc := foldCrcByte s.crc (s.decCell s.k), k := s.k + 1,
                      phase := if s.k + 1 = s.plen.toNat + 2 then phCrcc else phCrcb }

/-- CRC_CMP (R123). -/
def execCrcCmp (s : State) : Host.Outcome State Fault Refusal :=
  .next { s with crcMatch := flag (s.crc == s.dec16 (s.plen.toNat + 2)), phase := phExtract }

end Sys2Proof.Machine
end

