-- ==== Sys2Proof/Machine/Demapper.lean ====
section
/-!
DEFINITION. The Bit Demapper (spec/40_demapper.md): choosing the generation, and decoding one byte, the
shared body of DEMAP_HDR and DEMAP_PAY.
-/

namespace Sys2Proof.Machine

/-- GEN_G4 (R100). -/
def execGenG4 (s : State) : Host.Outcome State Fault Refusal :=
  .next { s with gen := 0, stride := strideG4, k := 0, phase := phHdr }

/-- GEN_G5 (R101). -/
def execGenG5 (s : State) : Host.Outcome State Fault Refusal :=
  .next { s with gen := 1, stride := strideG5, k := 0, phase := phHdr }

/-- What DEMAP_BYTE comes to. -/
inductive DemapResult where
  /-- a data bit lies past the last sample: nothing is written -/
  | outOfRange
  /-- a cell the buffers do not have (log 15) -/
  | noCell (f : Fault)
  /-- the state with `DEC[K]` and `K` written -/
  | decoded (t : State)

/-- DEMAP_BYTE (R103): the highest index is checked first (R52), then byte `K` is assembled, stored
and counted. -/
def demapByte (s : State) : DemapResult :=
  let c := s.bitCursor
  if s.n ≤ c + 7 then .outOfRange
  else if rawCap ≤ c + 7 then .noCell (.noRawCell (c + 7))
  else if decCap ≤ s.k then .noCell (.noDecCell s.k)
  else .decoded { s.storeDec s.k (s.byteAtCursor c) with k := s.k + 1 }

end Sys2Proof.Machine
end

