-- ==== Sys2Proof/Machine/Extract.lean ====
section
/-!
DEFINITION. The Field Extractor (spec/43_extract.md).
-/

namespace Sys2Proof.Machine

/-- EXTRACT_L55 (R131): two guarded reads in the rule's order, so a second guard that fails finds
`UP_TIME` written; with this row's key neither fails. Log 23. -/
def execExtractL55 (s : State) : Host.Outcome State Fault Refusal :=
  if s.decReadable off55Uptime 4 then
    let t := { s with upTime := s.dec32 off55Uptime }
    if t.decReadable off55Meter 4 then
      .next { t with meterId := t.dec32 off55Meter, meterId2 := 0, layout := layoutL55,
                     phase := phFilter }
    else raiseDrop .decOor t
  else raiseDrop .decOor s

/-- EXTRACT_LD5 (R132): one check before any register is written (R133). -/
def execExtractLd5 (s : State) : Host.Outcome State Fault Refusal :=
  if s.decReadable offD5Meter 4 then
    .next { s with meterId2 := s.dec32 offD5Meter2, meterId := s.dec32 offD5Meter, upTime := 0,
                   layout := layoutLd5, phase := phFilter }
  else raiseDrop .decOor s

/-- EXTRACT_REJECT (R134). -/
def execExtractReject (s : State) : Host.Outcome State Fault Refusal :=
  raiseDrop .layout s

end Sys2Proof.Machine
end

