-- ==== Sys2Proof/Machine/Filter.lean ====
section
/-!
DEFINITION. The Acceptance Filter (spec/44_filter.md).
-/

namespace Sys2Proof.Machine

/-- FILTER (R140): `ACCEPT` is written on both paths, before the drop is raised. Log 24. -/
def execFilter (s : State) : Host.Outcome State Fault Refusal :=
  let t := { s with accept := flag s.accepted }
  if t.accept = 1 then .next { t with k := 0, phase := phEmit }
  else raiseDrop .filter t

end Sys2Proof.Machine
end

