-- ==== Sys2Proof/Machine/Framer.lean ====
section
/-!
DEFINITION. The Frame Parser (spec/41_framer.md): the minimum-length guard, the header, the coarse length
check and the frame body.
-/

namespace Sys2Proof.Machine

/-- GUARD (R110). -/
def execGuard (s : State) : Host.Outcome State Fault Refusal :=
  if s.n < minSamples then raiseDrop .short s
  else .next (s.toPhase phGen)

/-- DEMAP_HDR (R111). -/
def execDemapHdr (s : State) : Host.Outcome State Fault Refusal :=
  match demapByte s with
  | .outOfRange => raiseDrop .rawOor s
  | .noCell f => .fault f
  | .decoded t => .next (t.toPhase (if t.k = hdrLen then phHparse else phHdr))

/-- HDR_PARSE (R112). -/
def execHdrParse (s : State) : Host.Outcome State Fault Refusal :=
  .next { s with ptype := s.decCell 1, plen := s.dec16 2, phase := phLchk }

/-- LCHK (R113): the raw sample count against the decoded byte count, kept as written (D25). -/
def execLchk (s : State) : Host.Outcome State Fault Refusal :=
  if ¬ s.n > s.plen.toNat then raiseDrop .len s
  else .next (s.toPhase (if s.plen = 0 then phCrci else phPay))

/-- DEMAP_PAY (R114). -/
def execDemapPay (s : State) : Host.Outcome State Fault Refusal :=
  match demapByte s with
  | .outOfRange => raiseDrop .rawOor s
  | .noCell f => .fault f
  | .decoded t => .next (t.toPhase (if t.k = t.decLen then phCrci else phPay))

end Sys2Proof.Machine
end

