-- ==== Sys2Proof/Machine/Interface.lean ====
section
/-!
DEFINITION. The operations with a port condition (spec/45_interface.md): capture and emission. Each
completes at the edge where its beat passes (R156); with no beat passing it holds and changes
nothing (R153, R154, R160; log 13).
-/

namespace Sys2Proof.Machine

/-- Where a captured sample leads (R153, R154): `s_last` ends the message. -/
def phaseAfterSample (last : Bool) : Phase :=
  if last then phGuard else phCapture

/-- CAPTURE_FIRST (R153). -/
def execCaptureFirst (s : State) : Host.Outcome State Fault Refusal :=
  if s.inputBeat then
    .next { s.storeRaw 0 (bitOf s.pins.sSample) with
              token := s.pins.sMeta, n := 1, dropCause := .none,
              phase := phaseAfterSample s.pins.sLast }
  else .next s

/-- CAPTURE (R154): samples past `RAW_CAP` are counted and discarded, and `N` saturates (R53). -/
def execCapture (s : State) : Host.Outcome State Fault Refusal :=
  if s.inputBeat then
    let t := if s.n < rawCap then s.storeRaw s.n (bitOf s.pins.sSample) else s
    .next { t with n := min (s.n + 1) rawCap, phase := phaseAfterSample s.pins.sLast }
  else .next s

/-- EMIT_BYTE (R160): the transfer is recorded in `outbox` (R11 `emit`, log 10), and `K` stays at the
last byte. -/
def execEmitByte (s : State) : Host.Outcome State Fault Refusal :=
  if s.outputBeat then
    if decCap ≤ s.k then .fault (.noDecCell s.k)
    else
      let t := { s with outbox := s.outbox ++ [s.driven] }
      if s.lastByte then .next (t.toPhase phIdle)
      else .next { t with k := s.k + 1, phase := phEmit }
  else .next s

end Sys2Proof.Machine
end

