-- ==== Sys2Proof/Machine/Dispatch.lean ====
section
/-!
DEFINITION. One arm per operation, each a call of its meaning.
-/

namespace Sys2Proof.Machine

def exec (i : Instr) (s : State) : Host.Outcome State Fault Refusal :=
  match i with
  | .captureFirst => Sys2Proof.Machine.execCaptureFirst s
  | .capture => Sys2Proof.Machine.execCapture s
  | .guard => Sys2Proof.Machine.execGuard s
  | .genG4 => Sys2Proof.Machine.execGenG4 s
  | .genG5 => Sys2Proof.Machine.execGenG5 s
  | .demapHdr => Sys2Proof.Machine.execDemapHdr s
  | .hdrParse => Sys2Proof.Machine.execHdrParse s
  | .lchk => Sys2Proof.Machine.execLchk s
  | .demapPay => Sys2Proof.Machine.execDemapPay s
  | .crcInit => Sys2Proof.Machine.execCrcInit s
  | .crcByte => Sys2Proof.Machine.execCrcByte s
  | .crcCmp => Sys2Proof.Machine.execCrcCmp s
  | .extractL55 => Sys2Proof.Machine.execExtractL55 s
  | .extractLd5 => Sys2Proof.Machine.execExtractLd5 s
  | .extractReject => Sys2Proof.Machine.execExtractReject s
  | .filter => Sys2Proof.Machine.execFilter s
  | .emitByte => Sys2Proof.Machine.execEmitByte s
  | .reset => Sys2Proof.Machine.execReset s
  | .drop cause => Sys2Proof.Machine.execDrop cause s

end Sys2Proof.Machine
end

