-- ==== Sys2Proof/WellFormed.lean ====
section
/-!
DEFINITION. Which terms of Instr the spec gives: every operation, and DROP with a cause that some
operation raises (spec/60_exceptions.md R171: NONE is raised by none).
-/

namespace Sys2Proof

/-- A cause some operation raises (R171): every cause but NONE. -/
def DropCause.raised : DropCause → Bool
  | .none => false
  | .short => true
  | .rawOor => true
  | .len => true
  | .crcRange => true
  | .layout => true
  | .decOor => true
  | .filter => true

/-- The one check on a term of Instr: DROP's cause is one that an operation raises. -/
def Instr.wellFormed : Instr → Bool
  | .captureFirst => true
  | .capture => true
  | .guard => true
  | .genG4 => true
  | .genG5 => true
  | .demapHdr => true
  | .hdrParse => true
  | .lchk => true
  | .demapPay => true
  | .crcInit => true
  | .crcByte => true
  | .crcCmp => true
  | .extractL55 => true
  | .extractLd5 => true
  | .extractReject => true
  | .filter => true
  | .emitByte => true
  | .reset => true
  | .drop cause => cause.raised

end Sys2Proof
end

