-- ==== Sys2Proof/Decode.lean ====
section
/-!
DEFINITION. What selects an operation (spec/30_encoding.md R84, R88, R89; spec/opcode_table.json): the
pin `rst` before everything, and otherwise the 28-bit decode key `DKEY`, matched row by row; and the
encoder, written from the same rows.
-/

namespace Sys2Proof

/-- All that selects the next operation: the pin `rst`, which takes priority over every key row
(R190), and the decode key (R89). -/
structure Selector where
  rst : Bool
  key : Key
deriving DecidableEq, Repr

/-- Why nothing is selected. -/
inductive DecodeError where
  /-- `DKEY[27:24]` is 0xE or 0xF (R90). -/
  | reservedPhase (phase : Phase)
  /-- A number of more than 28 bits is no decode key (R89). Log 17. -/
  | notAKey
deriving DecidableEq, Repr

/-- A row of spec/opcode_table.json that a key selects: `match` and `mask` over `DKEY` (R89). -/
structure OpRow where
  op    : Instr
  value : Key
  mask  : Key
deriving DecidableEq, Repr

/-- `DKEY` agrees with the row's `match` on every bit of its `mask`. -/
def OpRow.selects (r : OpRow) (key : Key) : Bool :=
  key &&& r.mask == r.value

/-- The rows a key selects, in the table's order; within a phase that is the rows' "order" (R84). -/
def opTable : List OpRow :=
  [ ⟨.captureFirst, 0x0000000, 0xF000000⟩,
    ⟨.capture,      0x1000000, 0xF000000⟩,
    ⟨.guard,        0x2000000, 0xF000000⟩,
    ⟨.genG4,        0x3000000, 0xF000001⟩,
    ⟨.genG5,        0x3000001, 0xF000001⟩,
    ⟨.demapHdr,     0x4000000, 0xF000000⟩,
    ⟨.hdrParse,     0x5000000, 0xF000000⟩,
    ⟨.lchk,         0x6000000, 0xF000000⟩,
    ⟨.demapPay,     0x7000000, 0xF000000⟩,
    ⟨.crcInit,      0x8000000, 0xF000000⟩,
    ⟨.crcByte,      0x9000000, 0xF000000⟩,
    ⟨.crcCmp,       0xA000000, 0xF000000⟩,
    ⟨.extractL55,   0xB550023, 0xFFFFFFF⟩,
    ⟨.extractLd5,   0xBD50000, 0xFFF0000⟩,
    ⟨.extractReject, 0xB000000, 0xF000000⟩,
    ⟨.filter,       0xC000000, 0xF000000⟩,
    ⟨.emitByte,     0xD000000, 0xF000000⟩ ]

/-- `DKEY[27:24]`, the phase of a key (R89). -/
def keyPhase (key : Key) : Phase :=
  key.extractLsb' 24 4

/-- The first row that matches (R84, R89); a reserved phase matches none (R90). -/
def decodeKey (key : Key) : Except DecodeError Instr :=
  match opTable.find? (fun r => r.selects key) with
  | some r => .ok r.op
  | none => .error (.reservedPhase (keyPhase key))

/-- The operation a selector selects: RESET first (R190), then the key. DROP is never selected
(R88, R172). -/
def decode (sel : Selector) : Except DecodeError Instr :=
  if sel.rst then .ok .reset else decodeKey sel.key

/-- The key in a word: its low 28 bits, refused if a higher bit is set. Log 17. -/
def decodeWord (w : Nat) : Except DecodeError Instr :=
  if w < 2 ^ 28 then decodeKey (BitVec.ofNat 28 w) else .error .notAKey

/-- What the decoder reads from an instruction of the table whose bits are `w` (bit 0 of `w` is
`DKEY[0]`). Every row is one 28-bit key, so the row's bit count adds nothing. -/
def decodeTableWord (_nbits w : Nat) : Option Instr :=
  match decodeWord w with
  | .ok i => some i
  | .error _ => none

/-- The selector of an operation, the bits that its row leaves open being zero: a key row's `match`,
the pin for RESET (R190), and nothing for DROP, which has no encoding (R172). -/
def encode : Instr → Option Selector
  | .captureFirst => some ⟨false, 0x0000000⟩
  | .capture => some ⟨false, 0x1000000⟩
  | .guard => some ⟨false, 0x2000000⟩
  | .genG4 => some ⟨false, 0x3000000⟩
  | .genG5 => some ⟨false, 0x3000001⟩
  | .demapHdr => some ⟨false, 0x4000000⟩
  | .hdrParse => some ⟨false, 0x5000000⟩
  | .lchk => some ⟨false, 0x6000000⟩
  | .demapPay => some ⟨false, 0x7000000⟩
  | .crcInit => some ⟨false, 0x8000000⟩
  | .crcByte => some ⟨false, 0x9000000⟩
  | .crcCmp => some ⟨false, 0xA000000⟩
  | .extractL55 => some ⟨false, 0xB550023⟩
  | .extractLd5 => some ⟨false, 0xBD50000⟩
  | .extractReject => some ⟨false, 0xB000000⟩
  | .filter => some ⟨false, 0xC000000⟩
  | .emitByte => some ⟨false, 0xD000000⟩
  | .reset => some ⟨true, 0⟩
  | .drop _ => none

end Sys2Proof
end

