-- ==== Sys2Proof/Machine/Sequencer.lean ====
section
/-!
DEFINITION. What the step adds around an operation: the decode key of a state (spec/30_encoding.md R89),
moving to the next clock edge, and placing a key where the sequencer reads it.
-/

namespace Sys2Proof.Machine

/-- `DKEY[23:0]` (R89): `RAW[0]` in GEN, `PTYPE ++ PLEN` in EXTRACT, 0 otherwise. -/
def State.keyData (s : State) : BitVec 24 :=
  if s.phase = phGen then (s.rawCell 0).setWidth 24
  else if s.phase = phExtract then s.ptype ++ s.plen
  else 0

/-- `DKEY` (R89). -/
def State.dkey (s : State) : Key :=
  s.phase ++ s.keyData

/-- What selects the next operation: the pin `rst` and `DKEY` (R89, R190). -/
def State.selector (s : State) : Selector :=
  { rst := s.pins.rst, key := s.dkey }

/-- The pins at the edge after the coming one: the schedule's next entry, and past its end the level
they have now. DESIGN CHOICE, log 8. -/
def State.nextPins (s : State) : Pins :=
  s.schedule.headD s.pins

/-- Move to the next edge: the host's pins for it, and the model's edge count. -/
def State.advance (s : State) : State :=
  { s with pins := s.nextPins, schedule := s.schedule.tail, edges := s.edges + 1 }

/-- The outcome of a step whose operation came to `o`. -/
def retire (o : Host.Outcome State Fault Refusal) : Host.Outcome State Fault Refusal :=
  match o with
  | .next t => .next t.advance
  | .fault f => .fault f
  | .refused r => .refused r

/-- The fault of a state that selects nothing (R90). `notAKey` is an error of `decodeWord` alone; a
state's key never gives it. -/
def selectFault (s : State) (e : DecodeError) : Fault :=
  match e with
  | .reservedPhase p => .reservedPhase p
  | .notAKey => .reservedPhase s.phase

/-- Place a decode key where the sequencer reads it (R89): the phase, and in GEN and EXTRACT the
registers the key's low bits come from. -/
def State.placeKey (s : State) (key : Key) : State :=
  let t := s.toPhase (keyPhase key)
  if t.phase = phGen then t.storeRaw 0 (key.extractLsb' 0 1)
  else if t.phase = phExtract then
    { t with ptype := key.extractLsb' 16 8, plen := key.extractLsb' 0 16 }
  else t

/-- The pins at which every port condition holds (R153, R154, R160): no reset, a sample offered, the
consumer ready. -/
def readyPins (p : Pins) : Pins :=
  { p with rst := false, sValid := true, mReady := true }

end Sys2Proof.Machine
end

