-- ==== Sys2Proof/Machine/Step.lean ====
section
/-!
DEFINITION. One step: the operation that the state selects, then the next clock edge
(spec/45_interface.md R156, R157; spec/30_encoding.md R89, R90).
-/

namespace Sys2Proof.Machine

/-- One step of the block (R156, R157). A step with no operation to complete is a hold of the
operation the phase selects (log 13). -/
def step (s : State) : Host.Outcome State Fault Refusal :=
  match decode s.selector with
  | .ok i => retire (exec i s)
  | .error e => .fault (selectFault s e)

/-- The state whose very next step runs the operation with the given decode key: the key placed where
the sequencer reads it, and the row's port condition met. Log 19. -/
def State.withFetchWord (s : State) (_nbits w : Nat) : State :=
  { s.placeKey (BitVec.ofNat 28 w) with pins := readyPins s.pins }

end Sys2Proof.Machine
end

