-- ==== Sys2Proof/Machine/Message.lean ====
section
/-!
DEFINITION. Whole messages: the message-level function that the sequencer computes
(spec/45_interface.md R158), the packet it puts on the output port (spec/30_encoding.md R87), how a
message is presented on the input port (spec/45_interface.md R152), and the message notation with its
expansion (spec/30_encoding.md R91, R92).
-/

namespace Sys2Proof.Machine

/-- An output packet with its sideband (R87, R158). -/
structure Packet where
  token    : Token
  bytes    : List Byte
  ptype    : Byte
  plen     : Half
  layout   : BitVec 2
  meterId  : Word
  meterId2 : Word
  upTime   : Word
deriving DecidableEq, Repr

/-- What a layout extracts (R158, "EXTRACT"). -/
structure Fields where
  layout   : BitVec 2
  meterId  : Word
  meterId2 : Word
  upTime   : Word
deriving DecidableEq, Repr

/-- `raw[i] = bit(s[i])` (R158). It is read only below the message's length. -/
def sampleBit (samples : List Byte) (i : Nat) : Bit :=
  bitOf (samples.getD i 0)

/-- `sum over j in 0..7 of raw[c + j] << j` (R158). -/
def sumOfBits (samples : List Byte) (c : Nat) : Nat :=
  ([0, 1, 2, 3, 4, 5, 6, 7].map (fun j => (sampleBit samples (c + j)).toNat <<< j)).sum

/-- `byte(k)` (R158), none where it fails. -/
def messageByte (samples : List Byte) (stride k : Nat) : Option Byte :=
  if samples.length ≤ pDataBase + k * stride + 7 then none
  else some (BitVec.ofNat 8 (sumOfBits samples (pDataBase + k * stride)))

/-- `byte(k), byte(k+1), …`, as many as the last argument says; none if any of them fails. -/
def messageBytes (samples : List Byte) (stride : Nat) : Nat → Nat → Option (List Byte)
  | _, 0 => some []
  | k, count + 1 =>
    match messageByte samples stride k, messageBytes samples stride (k + 1) count with
    | some b, some bs => some (b :: bs)
    | _, _ => none

/-- `be16` of a byte list (R158). It is read only inside the list. -/
def be16At (bytes : List Byte) (i : Nat) : Half :=
  bytes.getD i 0 ++ bytes.getD (i + 1) 0

/-- `be32` of a byte list (R158). It is read only inside the list. -/
def be32At (bytes : List Byte) (i : Nat) : Word :=
  be16At bytes i ++ be16At bytes (i + 2)

/-- The fields of the layout that (`T`, `L`) selects (R158). -/
def messageFields (dec : List Byte) (ptype : Byte) (plen : Half) : Option Fields :=
  if ptype = t55 ∧ plen = l55Len then
    some { layout := layoutL55, meterId := be32At dec off55Meter, meterId2 := 0,
           upTime := be32At dec off55Uptime }
  else if ptype = td5 ∧ 9 ≤ plen.toNat then
    some { layout := layoutLd5, meterId := be32At dec offD5Meter,
           meterId2 := be32At dec offD5Meter2, upTime := 0 }
  else none

/-- Whether the CRC over the CRC range `dec[4 .. L+1]` is the stored one (R158). -/
def messageCrcMatch (cfg : FilterConfig) (dec : List Byte) (plen : Half) : Bool :=
  crc16 cfg.crcInit ((dec.drop hdrLen).take (plen.toNat - 2)) == be16At dec (plen.toNat + 2)

/-- The stages after the frame parser: CRC, extraction, filter (R158). -/
def acceptDecoded (token : Token) (dec : List Byte) (ptype : Byte) (plen : Half)
    (cfg : FilterConfig) : Option Packet :=
  if plen.toNat < 2 then none
  else
    match messageFields dec ptype plen with
    | none => none
    | some f =>
      if accepts cfg (flag (messageCrcMatch cfg dec plen)) f.meterId f.meterId2 plen ptype then
        some { token := token, bytes := dec, ptype := ptype, plen := plen, layout := f.layout,
               meterId := f.meterId, meterId2 := f.meterId2, upTime := f.upTime }
      else none

/-- The message-level function (R158): the packet a message gives, if it gives one. -/
def decodeMessage (token : Token) (samples : List Byte) (cfg : FilterConfig) : Option Packet :=
  if samples.length < minSamples then none
  else
    let stride := (strideOf (sampleBit samples 0)).toNat
    match messageBytes samples stride 0 hdrLen with
    | none => none
    | some header =>
      let ptype := header.getD 1 0
      let plen := be16At header 2
      if ¬ samples.length > plen.toNat then none
      else
        match messageBytes samples stride hdrLen plen.toNat with
        | none => none
        | some body => acceptDecoded token (header ++ body) ptype plen cfg

/-- The beat that carries byte `k` of a packet (R160, R161). -/
def Packet.beat (p : Packet) (k : Nat) : OutBus :=
  { byte := p.bytes.getD k 0, last := if k + 1 = p.bytes.length then 1 else 0, token := p.token,
    count := BitVec.ofNat 17 p.bytes.length, packetType := p.ptype, packetLength := p.plen,
    layout := p.layout, meterId := p.meterId, meterId2 := p.meterId2, upTime := p.upTime }

/-- All beats of a packet, in index order, once each (R160). -/
def Packet.beats (p : Packet) : List OutBus :=
  (List.range p.bytes.length).map p.beat

/-- The beats a message puts on the output port: those of its packet, or none (R158, R62). -/
def beatsOf : Option Packet → List OutBus
  | none => []
  | some p => p.beats

/-! ## On the input port -/

/-- The pins of one input beat, with the consumer ready (R151, R152). -/
def beatPins (cfgPins : FilterConfig) (token : Token) (sample : Byte) (last : Bool) : Pins :=
  { rst := false, sValid := true, sSample := sample, sLast := last, sMeta := token, mReady := true,
    cfg := cfgPins }

/-- The pins with nothing offered and the consumer ready. -/
def quietPins (cfgPins : FilterConfig) : Pins :=
  { rst := false, sValid := false, sSample := 0, sLast := false, sMeta := 0, mReady := true,
    cfg := cfgPins }

/-- A message as consecutive input beats, the last and no other with `s_last` (R152). -/
def messagePins (cfgPins : FilterConfig) (token : Token) : List Byte → List Pins
  | [] => []
  | [b] => [beatPins cfgPins token b true]
  | b :: b' :: rest => beatPins cfgPins token b false :: messagePins cfgPins token (b' :: rest)

/-- The message that the block has captured: its samples as `RAW` holds them (R51). -/
def State.samples (s : State) : List Byte :=
  (List.range s.n).map (fun i => (s.rawCell i).setWidth 8)

/-! ## The message notation -/

/-- A line `MSG <G4|G5> meta=… [cut=…] [raw0=…] bytes …` (R91). -/
structure Msg where
  gen   : Bit
  token : Token
  cut   : Option Nat
  raw0  : Option Byte
  bytes : List Byte
deriving DecidableEq, Repr

/-- The samples of one symbol (R92): 8 data bits, least significant first, then framing: ones, and a
zero last. -/
def symbolSamples (stride : Nat) (b : Byte) : List Byte :=
  [0, 1, 2, 3, 4, 5, 6, 7].map (fun j => (b >>> j) &&& 1) ++ (List.replicate (stride - 9) 1 ++ [0])

/-- The expansion before `cut` (R92): the marker, the start bit of symbol 0, the symbols. -/
def Msg.expandFull (m : Msg) : List Byte :=
  m.raw0.getD (if m.gen = 0 then 0 else 1) ::
    (List.replicate (pDataBase - 1) 0 ++
      m.bytes.flatMap (symbolSamples (strideOf m.gen).toNat))

/-- The expansion of the message notation (R92). -/
def Msg.expand (m : Msg) : List Byte :=
  match m.cut with
  | none => m.expandFull
  | some count => m.expandFull.take count

end Sys2Proof.Machine
end

