-- ==== Sys2Proof/Safety.lean ====
section
/-!
DEFINITION. What claims are stated in: which cells are written, the invariant of the sequencer
(spec/10_state.md R40, spec/45_interface.md R157), what the ports show (spec/45_interface.md R150), and
runs of several steps.
-/

namespace Sys2Proof.Machine

/-- `PHASE` lies between two phases of R88's order. -/
abbrev State.between (s : State) (lo hi : Phase) : Prop :=
  lo ≤ s.phase ∧ s.phase ≤ hi

/-- `RAW[i]` has been written. -/
abbrev State.rawWritten (s : State) (i : Nat) : Prop :=
  (Memory.read? s.raw i).isSome

/-- `DEC[i]` has been written. -/
abbrev State.decWritten (s : State) (i : Nat) : Prop :=
  (Memory.read? s.dec i).isSome

/-- The `RAW` index of the first data bit of decoded byte `i` (R75). -/
def State.byteIndex (s : State) (i : Nat) : Nat :=
  pDataBase + i * s.stride.toNat

/-- `DEC[0 .. count-1]` are written and hold the bytes that the captured samples carry (R55, R75,
R117). -/
def State.decodedUpTo (s : State) (count : Nat) : Prop :=
  ∀ i < count, s.decWritten i ∧ s.byteIndex i + 7 < s.n ∧ s.decCell i = s.byteAtCursor (s.byteIndex i)

/-- `DEC[start .. start+count-1]` as a list. -/
def State.decBytes (s : State) (start count : Nat) : List Byte :=
  (List.range count).map (fun i => s.decCell (start + i))

/-- Both buffers are in canonical form. -/
structure MemoryOk (s : State) : Prop where
  raw : Memory.wf rawCap s.raw
  dec : Memory.wf decCap s.dec

/-- The registers hold what layout L55 extracts (R131). -/
structure FieldsL55 (s : State) : Prop where
  layout   : s.layout = layoutL55
  ptype    : s.ptype = t55
  plen     : s.plen = l55Len
  upTime   : s.upTime = s.dec32 off55Uptime
  meterId  : s.meterId = s.dec32 off55Meter
  meterId2 : s.meterId2 = 0

/-- The registers hold what layout LD5 extracts (R132). -/
structure FieldsLd5 (s : State) : Prop where
  layout   : s.layout = layoutLd5
  ptype    : s.ptype = td5
  plen     : 9 ≤ s.plen.toNat
  upTime   : s.upTime = 0
  meterId  : s.meterId = s.dec32 offD5Meter
  meterId2 : s.meterId2 = s.dec32 offD5Meter2

/-- What holds of the registers in each phase (R40, R157): every register and cell that an operation
of the phase reads has been written for the current message, with the value the earlier
operations give it. -/
structure MessageInv (s : State) : Prop where
  legalPhase : s.phase ≤ phEmit
  countBound : s.n ≤ rawCap
  indexBound : s.k ≤ decCap
  layoutLegal : s.layout ≠ 3
  captured : s.between phCapture phEmit → 1 ≤ s.n ∧ ∀ i < s.n, s.rawWritten i
  longEnough : s.between phGen phEmit → minSamples ≤ s.n
  generation : s.between phHdr phEmit → s.gen = s.rawCell 0 ∧ s.stride = strideOf s.gen
  headerByte : s.phase = phHdr → s.k < hdrLen ∧ s.decodedUpTo s.k
  headerDone : s.between phHparse phLchk → s.k = hdrLen ∧ s.decodedUpTo hdrLen
  header : s.between phLchk phEmit → s.ptype = s.decCell 1 ∧ s.plen = s.dec16 2
  lengthCheck : s.between phPay phEmit → s.plen.toNat < s.n
  bodyByte : s.phase = phPay → hdrLen ≤ s.k ∧ s.k < s.decLen ∧ s.decodedUpTo s.k
  bodyDone : s.between phCrci phEmit → s.decodedUpTo s.decLen
  crcRoom : s.between phCrcb phEmit → 2 ≤ s.plen.toNat
  crcRunning : s.phase = phCrcb → hdrLen ≤ s.k ∧ s.k < s.plen.toNat + 2 ∧
    s.crc = crc16 s.cfg.crcInit (s.decBytes hdrLen (s.k - hdrLen))
  crcDone : s.between phCrcc phEmit →
    s.crc = crc16 s.cfg.crcInit (s.decBytes hdrLen (s.plen.toNat - 2))
  crcFlag : s.between phExtract phEmit →
    s.crcMatch = flag (s.crc == s.dec16 (s.plen.toNat + 2))
  fields : s.between phFilter phEmit → FieldsL55 s ∨ FieldsLd5 s
  emitting : s.phase = phEmit → s.accept = 1 ∧ s.accepted ∧ s.k < s.decLen

/-- The invariant every step keeps. -/
structure Inv (s : State) : Prop where
  memory  : MemoryOk s
  message : MessageInv s

/-- What the output ports show that a host may read (R155, R162): the data outputs count only while
`m_valid = 1`. -/
structure PortView where
  sReady : Bool
  mValid : Bool
  bus    : Option OutBus
deriving DecidableEq, Repr

/-- The output ports of a state. -/
def State.portView (s : State) : PortView :=
  { sReady := s.sReady, mValid := s.mValid, bus := if s.mValid then some s.outBus else none }

/-- Several steps. -/
def steps (count : Nat) (s : State) : Host.Outcome State Fault Refusal :=
  Sys2Proof.core.run count s

/-- With no reset, a step in the given phase is the given operation (R88, R156). -/
def runsIn (i : Instr) (p : Phase) : Prop :=
  ∀ s : State, s.pins.rst = false → s.phase = p → step s = retire (exec i s)

/-- The same outcome with another view of its next state. -/
def mapNext (f : State → State) (o : Host.Outcome State Fault Refusal) :
    Host.Outcome State Fault Refusal :=
  match o with
  | .next t => .next (f t)
  | .fault r => .fault r
  | .refused r => .refused r

/-- The host holds `rst = 0` from the coming edge on (past the schedule's end the pins keep their
level). -/
def State.noReset (s : State) : Prop :=
  s.pins.rst = false ∧ ∀ p ∈ s.schedule, p.rst = false

/-- The `RAW` cells the given operation reads in a state, the selection's own read of `RAW[0]`
included (R50). -/
def rawReads (i : Instr) (s : State) : List Nat :=
  match i with
  | .captureFirst => []
  | .capture => []
  | .guard => []
  | .genG4 => [0]
  | .genG5 => [0]
  | .demapHdr => if s.n ≤ s.bitCursor + 7 then [] else (List.range 8).map (s.bitCursor + ·)
  | .hdrParse => []
  | .lchk => []
  | .demapPay => if s.n ≤ s.bitCursor + 7 then [] else (List.range 8).map (s.bitCursor + ·)
  | .crcInit => []
  | .crcByte => []
  | .crcCmp => []
  | .extractL55 => []
  | .extractLd5 => []
  | .extractReject => []
  | .filter => []
  | .emitByte => []
  | .reset => []
  | .drop _ => []

/-- The `DEC` cells the given operation reads in a state (R50). -/
def decReads (i : Instr) (s : State) : List Nat :=
  match i with
  | .captureFirst => []
  | .capture => []
  | .guard => []
  | .genG4 => []
  | .genG5 => []
  | .demapHdr => []
  | .hdrParse => [1, 2, 3]
  | .lchk => []
  | .demapPay => []
  | .crcInit => []
  | .crcByte => [s.k]
  | .crcCmp => [s.plen.toNat + 2, s.plen.toNat + 3]
  | .extractL55 => [18, 19, 20, 21, 24, 25, 26, 27]
  | .extractLd5 => if s.decReadable offD5Meter 4 then [5, 6, 7, 8, 9, 10, 11, 12] else []
  | .extractReject => []
  | .filter => []
  | .emitByte => [s.k]
  | .reset => []
  | .drop _ => []

/-- Two states that differ at most in cells the operation does not read (R40, R50): every register,
pin and model field is the same, and so is every cell that `rawReads` and `decReads` list. -/
structure SameReads (i : Instr) (s s' : State) : Prop where
  rest : s' = { s with raw := s'.raw, dec := s'.dec }
  raw  : ∀ a ∈ rawReads i s, s'.rawCell a = s.rawCell a
  dec  : ∀ a ∈ decReads i s, s'.decCell a = s.decCell a

/-- Two next states, from `s` and from `s'`, agree on every register, pin and model field, and each cell
either holds the same in both or was left alone in both. -/
structure SameWrites (s s' t t' : State) : Prop where
  rest : t' = { t with raw := t'.raw, dec := t'.dec }
  raw  : ∀ a, t'.rawCell a = t.rawCell a ∨ t.rawCell a = s.rawCell a ∧ t'.rawCell a = s'.rawCell a
  dec  : ∀ a, t'.decCell a = t.decCell a ∨ t.decCell a = s.decCell a ∧ t'.decCell a = s'.decCell a

/-- Two outcomes, from `s` and from `s'`, that agree: the same kind of outcome, and either the same
reason or next states that agree. -/
def outcomesAgree (s s' : State) (o o' : Host.Outcome State Fault Refusal) : Prop :=
  match o, o' with
  | .next t, .next t' => SameWrites s s' t t'
  | .fault f, .fault f' => f = f'
  | .refused r, .refused r' => r = r'
  | _, _ => False

end Sys2Proof.Machine
end

