-- ==== Sys2Proof/Certificates/Slice0/Obligations.lean ====
section
/-!
DEFINITION. The statements for the provers. Each docstring names the rule of spec/ it formalises, or says
that it is derived, and names the log entries of the model's own choices it speaks of.
-/

open Sys2Proof Sys2Proof.Machine

/-! ## Selecting and running an operation -/

/-- R84, R85, R88, R89, R90: the operation of every one of the 2^28 decode keys, by the fields of the
key. -/
def Obligations.DecodeKeySelectsByFields : Prop :=
  ∀ key : Key,
    decodeKey key =
      match (key.extractLsb' 24 4).toNat with
      | 0x0 => .ok .captureFirst
      | 0x1 => .ok .capture
      | 0x2 => .ok .guard
      | 0x3 => .ok (if key.getLsbD 0 then .genG5 else .genG4)
      | 0x4 => .ok .demapHdr
      | 0x5 => .ok .hdrParse
      | 0x6 => .ok .lchk
      | 0x7 => .ok .demapPay
      | 0x8 => .ok .crcInit
      | 0x9 => .ok .crcByte
      | 0xA => .ok .crcCmp
      | 0xB =>
        .ok (if key.extractLsb' 16 8 = 0x55 ∧ key.extractLsb' 0 16 = 0x0023 then .extractL55
          else if key.extractLsb' 16 8 = 0xD5 then .extractLd5
          else .extractReject)
      | 0xC => .ok .filter
      | 0xD => .ok .emitByte
      | _ => .error (.reservedPhase (key.extractLsb' 24 4))

/-- Decode and encode agree, for every well-formed operation that has an encoding and every key that
agrees with the encoding on the bits its row fixes (the low 24 bits are open but for those GEN and
EXTRACT read, R89; a later EXTRACT row needs that no earlier one matches, R84). -/
def Obligations.DecodeOfEncodedOperation : Prop :=
  ∀ (i : Instr) (sel : Selector), i.wellFormed = true → encode i = some sel →
    decode sel = .ok i ∧
    (sel.rst = true → ∀ key, decode ⟨true, key⟩ = .ok i) ∧
    (sel.rst = false → ∀ key : Key, key.extractLsb' 24 4 = sel.key.extractLsb' 24 4 →
      (i = .genG4 ∨ i = .genG5 → key.getLsbD 0 = sel.key.getLsbD 0) →
      (i = .extractL55 → key = sel.key) →
      (i = .extractLd5 → key.extractLsb' 16 8 = sel.key.extractLsb' 16 8) →
      (i = .extractReject →
        ¬ (key.extractLsb' 16 8 = 0x55 ∧ key.extractLsb' 0 16 = 0x0023) ∧
        key.extractLsb' 16 8 ≠ 0xD5) →
      decode ⟨false, key⟩ = .ok i)

/-- A few words written out from spec/opcode_table.json decode to their operations. -/
def Obligations.TableWordsDecode : Prop :=
  decodeTableWord 32 0x0000000 = some .captureFirst ∧
  decodeTableWord 32 0x1000000 = some .capture ∧
  decodeTableWord 32 0x3000001 = some .genG5 ∧
  decodeTableWord 32 0x7000000 = some .demapPay ∧
  decodeTableWord 32 0xB550023 = some .extractL55 ∧
  decodeTableWord 32 0xBD50009 = some .extractLd5 ∧
  decodeTableWord 32 0xB550022 = some .extractReject ∧
  decodeTableWord 32 0xD000000 = some .emitByte ∧
  decodeTableWord 32 0xE000000 = none

/-- R89: the decode key of every state. -/
def Obligations.DecodeKeyOfState : Prop :=
  ∀ s : State,
    s.dkey.extractLsb' 24 4 = s.phase ∧
    (s.phase = 0x3 → s.dkey.extractLsb' 0 24 = (s.rawCell 0).setWidth 24) ∧
    (s.phase = 0xB → s.dkey.extractLsb' 16 8 = s.ptype ∧ s.dkey.extractLsb' 0 16 = s.plen) ∧
    (s.phase ≠ 0x3 → s.phase ≠ 0xB → s.dkey.extractLsb' 0 24 = 0)

/-- A step runs the operation the state selects, and moves to the host's next pins (log 8), counting
the step (log 11). -/
def Obligations.StepRunsSelectedOperation : Prop :=
  ∀ (s : State) (i : Instr), decode s.selector = .ok i →
    step s =
      match exec i s with
      | .next t => .next { t with pins := t.schedule.headD t.pins, schedule := t.schedule.tail,
                                  edges := t.edges + 1 }
      | .fault f => .fault f
      | .refused r => .refused r

/-- R130, with R84: in phase EXTRACT exactly one of the three operations runs, chosen in order on the
key `PTYPE ++ PLEN`. -/
def Obligations.ExtractDispatchesOnTypeAndLength : Prop :=
  ∀ s : State, s.pins.rst = false → s.phase = 0xB →
    step s =
      retire (if s.ptype = 0x55 ∧ s.plen = 0x0023 then exec .extractL55 s
        else if s.ptype = 0xD5 then exec .extractLd5 s
        else exec .extractReject s)

/-- R90: no step enters phase 0xE or 0xF, and a state found there is a fault. -/
def Obligations.ReservedPhaseNeverEnteredAndFaults : Prop :=
  (∀ s t : State, step s = .next t → t.phase ≠ 0xE ∧ t.phase ≠ 0xF) ∧
  (∀ s : State, s.pins.rst = false → s.phase = 0xE ∨ s.phase = 0xF →
    step s = .fault (.reservedPhase s.phase))

/-! ## What each operation does: it completes, with this next state -/

/-- R190, and from R155 and R162 that no beat passes on a reset edge: RESET runs whatever the phase,
writes `PHASE`, `DROP_CAUSE` and `CFG_*`, and changes nothing else. -/
def Obligations.ResetLoadsConfiguration : Prop :=
  ∀ s : State,
    exec .reset s = .next { s with phase := 0x0, dropCause := .none, cfg := s.pins.cfg } ∧
    (s.pins.rst = true →
      step s = retire (exec .reset s) ∧ s.sReady = false ∧ s.mValid = false ∧
      s.inputBeat = false ∧ s.outputBeat = false)

/-- R172: DROP writes the cause and the phase, and every other register and cell keeps its value; then
no output beat is offered and a sample can be taken. -/
def Obligations.DropRecordsCauseAndReturnsToIdle : Prop :=
  ∀ (cause : DropCause) (s : State),
    exec (.drop cause) s = .next { s with dropCause := cause, phase := 0x0 } ∧
    (takeDrop cause s).outputBeat = false ∧
    (s.pins.rst = false → (takeDrop cause s).sReady = true)

/-- R153: CAPTURE_FIRST on a beat, and its hold without one. -/
def Obligations.CaptureFirstTakesFirstSample : Prop :=
  runsIn .captureFirst 0x0 ∧
  ∀ s : State, s.pins.rst = false → s.phase = 0x0 →
    (s.pins.sValid = true →
      ∃ t, exec .captureFirst s = .next t ∧
        t.token = s.pins.sMeta ∧ t.rawCell 0 = (if s.pins.sSample = 0 then 0 else 1) ∧
        t.n = 1 ∧ t.dropCause = .none ∧ t.phase = (if s.pins.sLast then 0x2 else 0x1) ∧
        (∀ a, a ≠ 0 → t.rawCell a = s.rawCell a) ∧ (∀ a, t.decCell a = s.decCell a) ∧
        { t with token := s.token, raw := s.raw, n := s.n, dropCause := s.dropCause,
                 phase := s.phase } = s) ∧
    (s.pins.sValid = false → exec .captureFirst s = .next s)

/-- R154: CAPTURE on a beat, below `RAW_CAP` and at it, its hold without one, and `N >= 1` at GUARD. -/
def Obligations.CaptureAppendsSample : Prop :=
  runsIn .capture 0x1 ∧
  (∀ s : State, s.pins.rst = false → s.phase = 0x1 →
    (s.pins.sValid = true →
      ∃ t, exec .capture s = .next t ∧
        t.n = min (s.n + 1) rawCap ∧ t.phase = (if s.pins.sLast then 0x2 else 0x1) ∧
        (s.n < rawCap → t.rawCell s.n = (if s.pins.sSample = 0 then 0 else 1)) ∧
        (∀ a, a ≠ s.n ∨ rawCap ≤ s.n → t.rawCell a = s.rawCell a) ∧
        (∀ a, t.decCell a = s.decCell a) ∧
        { t with raw := s.raw, n := s.n, phase := s.phase } = s) ∧
    (s.pins.sValid = false → exec .capture s = .next s)) ∧
  (∀ s : State, Inv s → s.phase = 0x2 → 1 ≤ s.n)

/-- R110: GUARD at 8 and at 9 samples; that a message of 9 then drops in DEMAP_HDR; and that the
message-level function gives nothing below 9, the empty message included. -/
def Obligations.GuardDropsShortMessages : Prop :=
  runsIn .guard 0x2 ∧
  (∀ (token : Token) (samples : List Byte) (cfg : FilterConfig), samples.length < 9 →
    decodeMessage token samples cfg = none) ∧
  ∀ s : State,
    (s.n < 9 → exec .guard s = .next { s with dropCause := .short, phase := 0x0 }) ∧
    (9 ≤ s.n → exec .guard s = .next { s with phase := 0x3 }) ∧
    (s.n = 9 → exec .demapHdr s = .next { s with dropCause := .rawOor, phase := 0x0 })

/-- R100, R101: the generation that `RAW[0]` selects, and the stride it fixes. -/
def Obligations.GenerationSetsStride : Prop :=
  ∀ s : State,
    exec .genG4 s = .next { s with gen := 0, stride := 10, k := 0, phase := 0x4 } ∧
    exec .genG5 s = .next { s with gen := 1, stride := 11, k := 0, phase := 0x4 } ∧
    (s.pins.rst = false → s.phase = 0x3 →
      step s = retire (if s.rawCell 0 = 0 then exec .genG4 s else exec .genG5 s))

/-- R103, with R57: DEMAP_BYTE as DEMAP_HDR and DEMAP_PAY perform it: bit `j` of the byte is the
sample `j` after the cursor, exactly `DEC[K]` and `K` are written besides the phase, and a message
that ends too early drops with nothing written. -/
def Obligations.DemapByteAssemblesOneByte : Prop :=
  runsIn .demapHdr 0x4 ∧ runsIn .demapPay 0x7 ∧
  ∀ (s : State) (i : Instr) (next : Phase),
    i = .demapHdr ∧ next = (if s.k + 1 = 4 then 0x5 else 0x4) ∨
      i = .demapPay ∧ next = (if s.k + 1 = 4 + s.plen.toNat then 0x8 else 0x7) →
    (s.n ≤ pDataBase + s.k * s.stride.toNat + 7 →
      exec i s = .next { s with dropCause := .rawOor, phase := 0x0 }) ∧
    (pDataBase + s.k * s.stride.toNat + 7 < s.n → s.n ≤ rawCap → s.k < decCap →
      ∃ t, exec i s = .next t ∧
        (∀ j : Fin 8, (t.decCell s.k).getLsbD j =
          (s.rawCell (pDataBase + s.k * s.stride.toNat + j)).getLsbD 0) ∧
        t.k = s.k + 1 ∧ t.phase = next ∧
        (∀ a, a ≠ s.k → t.decCell a = s.decCell a) ∧ (∀ a, t.rawCell a = s.rawCell a) ∧
        { t with dec := s.dec, k := s.k, phase := s.phase } = s)

/-- R112: HDR_PARSE. -/
def Obligations.HeaderParseReadsTypeAndLength : Prop :=
  runsIn .hdrParse 0x5 ∧
  ∀ s : State,
    exec .hdrParse s =
      .next { s with ptype := s.decCell 1, plen := s.decCell 2 ++ s.decCell 3, phase := 0x6 }

/-- R113: LCHK compares the raw sample count with `PLEN`, no tighter. -/
def Obligations.LengthCheckIsCoarse : Prop :=
  runsIn .lchk 0x6 ∧
  ∀ s : State,
    (s.n ≤ s.plen.toNat → exec .lchk s = .next { s with dropCause := .len, phase := 0x0 }) ∧
    (s.plen.toNat < s.n → s.plen = 0 → exec .lchk s = .next { s with phase := 0x8 }) ∧
    (s.plen.toNat < s.n → s.plen ≠ 0 → exec .lchk s = .next { s with phase := 0x7 })

/-- R121: CRC_INIT, whatever `CFG_CRC_EN` is. -/
def Obligations.CrcInitSeedsCrc : Prop :=
  runsIn .crcInit 0x8 ∧
  ∀ s : State,
    (s.plen.toNat < 2 → exec .crcInit s = .next { s with dropCause := .crcRange, phase := 0x0 }) ∧
    (s.plen.toNat = 2 →
      exec .crcInit s = .next { s with crc := s.cfg.crcInit, k := 4, phase := 0xA }) ∧
    (2 < s.plen.toNat →
      exec .crcInit s = .next { s with crc := s.cfg.crcInit, k := 4, phase := 0x9 })

/-- R122: CRC_BYTE folds `DEC[K]` in eight shift-and-XOR rounds, and in phase CRCB `K` stays inside the
CRC range. -/
def Obligations.CrcByteFoldsOneByte : Prop :=
  runsIn .crcByte 0x9 ∧
  (∀ s : State, Inv s → s.phase = 0x9 → 4 ≤ s.k ∧ s.k ≤ s.plen.toNat + 1 ∧ s.k < decCap) ∧
  (∀ crc : Half,
    crcRound crc = if crc.getLsbD 15 then (crc <<< 1) ^^^ 0x1021 else crc <<< 1) ∧
  (∀ s : State, s.k < decCap →
    exec .crcByte s =
      .next { s with crc := crcRound^[8] (s.crc ^^^ ((s.decCell s.k).setWidth 16 <<< 8)),
                     k := s.k + 1,
                     phase := if s.k + 1 = s.plen.toNat + 2 then 0xA else 0x9 })

/-- R123: CRC_CMP; a mismatch is no drop. -/
def Obligations.CrcCompareSetsMatchFlag : Prop :=
  runsIn .crcCmp 0xA ∧
  ∀ s : State,
    exec .crcCmp s =
      .next { s with
        crcMatch :=
          if s.crc = s.decCell (s.plen.toNat + 2) ++ s.decCell (s.plen.toNat + 3) then 1 else 0,
        phase := 0xB }

/-- R131: EXTRACT_L55 with the operands its row selects, and so for every length whose decoded bytes
hold both fields. -/
def Obligations.ExtractL55ReadsFields : Prop :=
  (∀ s : State, s.pins.rst = false → s.phase = 0xB → s.ptype = 0x55 → s.plen = 0x0023 →
    step s = retire (exec .extractL55 s)) ∧
  ∀ s : State, 24 ≤ s.plen.toNat →
    exec .extractL55 s =
      .next { s with
        upTime := (s.decCell 18 ++ s.decCell 19) ++ (s.decCell 20 ++ s.decCell 21),
        meterId := (s.decCell 24 ++ s.decCell 25) ++ (s.decCell 26 ++ s.decCell 27),
        meterId2 := 0, layout := 1, phase := 0xC }

/-- R132, R133: EXTRACT_LD5, and its drop before any register is written. -/
def Obligations.ExtractLd5ReadsFields : Prop :=
  (∀ s : State, s.pins.rst = false → s.phase = 0xB → s.ptype = 0xD5 →
    step s = retire (exec .extractLd5 s)) ∧
  ∀ s : State,
    (9 ≤ s.plen.toNat →
      exec .extractLd5 s =
        .next { s with
          meterId2 := (s.decCell 5 ++ s.decCell 6) ++ (s.decCell 7 ++ s.decCell 8),
          meterId := (s.decCell 9 ++ s.decCell 10) ++ (s.decCell 11 ++ s.decCell 12),
          upTime := 0, layout := 2, phase := 0xC }) ∧
    (s.plen.toNat < 9 → exec .extractLd5 s = .next { s with dropCause := .decOor, phase := 0x0 })

/-- R134: EXTRACT_REJECT always drops, whatever the filter settings. -/
def Obligations.ExtractRejectDrops : Prop :=
  (∀ s : State, s.pins.rst = false → s.phase = 0xB → s.ptype ≠ 0xD5 →
    ¬ (s.ptype = 0x55 ∧ s.plen = 0x0023) → step s = retire (exec .extractReject s)) ∧
  ∀ s : State, exec .extractReject s = .next { s with dropCause := .layout, phase := 0x0 }

/-- R140 with R141 to R144: FILTER accepts exactly when the four predicates hold. `ACCEPT` is written
on the drop path too, as the pseudocode orders it. -/
def Obligations.FilterDecidesByFourPredicates : Prop :=
  runsIn .filter 0xC ∧
  ∀ s : State,
    let pCrc := s.crcMatch = 1 ∨ s.cfg.crcEn = 0
    let pMeter := s.meterId = s.cfg.meterId ∨ s.meterId2 = s.cfg.meterId ∨ s.cfg.meterId = 0
    let pLen := s.plen = s.cfg.plen ∨ s.cfg.plen = 0
    let pType := s.ptype = s.cfg.ptype ∨ s.cfg.ptype = 0
    (pCrc ∧ pMeter ∧ pLen ∧ pType →
      exec .filter s = .next { s with accept := 1, k := 0, phase := 0xD }) ∧
    (¬ (pCrc ∧ pMeter ∧ pLen ∧ pType) →
      exec .filter s = .next { s with accept := 0, dropCause := .filter, phase := 0x0 })

/-- R160 with R161: EMIT_BYTE sends byte `K` with its sideband on a beat, and holds without one; `K`
stays inside the packet, which has at least 13 bytes. The transfer is recorded in `outbox` (log
10). -/
def Obligations.EmitByteSendsOneByte : Prop :=
  runsIn .emitByte 0xD ∧
  (∀ s : State, Inv s → s.phase = 0xD →
    s.k ≤ 4 + s.plen.toNat - 1 ∧ s.k < decCap ∧ 13 ≤ 4 + s.plen.toNat) ∧
  ∀ s : State, s.pins.rst = false → s.phase = 0xD →
    let bus : OutBus :=
      { byte := s.decCell s.k, last := if s.k = 4 + s.plen.toNat - 1 then 1 else 0,
        token := s.token, count := BitVec.ofNat 17 (4 + s.plen.toNat), packetType := s.ptype,
        packetLength := s.plen, layout := s.layout, meterId := s.meterId, meterId2 := s.meterId2,
        upTime := s.upTime }
    s.mValid = true ∧ s.outBus = bus ∧
    (s.pins.mReady = true → s.k < decCap → s.k = 4 + s.plen.toNat - 1 →
      exec .emitByte s = .next { s with outbox := s.outbox ++ [bus], phase := 0x0 }) ∧
    (s.pins.mReady = true → s.k < decCap → s.k ≠ 4 + s.plen.toNat - 1 →
      exec .emitByte s = .next { s with outbox := s.outbox ++ [bus], k := s.k + 1 }) ∧
    (s.pins.mReady = false → exec .emitByte s = .next s)

/-- R157: the table of phase transitions, with the cause each dropping row records and the `K` that
GEN, CRC_INIT and FILTER enter the next phase with. -/
def Obligations.PhaseTransitionsFollowTable : Prop :=
  ∀ s t : State, step s = .next t →
    (s.pins.rst = true → t.phase = 0x0 ∧ t.dropCause = .none) ∧
    (s.pins.rst = false →
      s.phase ≤ 0xD ∧
      (t.phase, t.dropCause) =
        (if s.phase = 0x0 then
          if s.inputBeat then (if s.pins.sLast then 0x2 else 0x1, DropCause.none)
          else (0x0, s.dropCause)
        else if s.phase = 0x1 then
          if s.inputBeat then (if s.pins.sLast then 0x2 else 0x1, s.dropCause)
          else (0x1, s.dropCause)
        else if s.phase = 0x2 then if s.n < 9 then (0x0, .short) else (0x3, s.dropCause)
        else if s.phase = 0x3 then (0x4, s.dropCause)
        else if s.phase = 0x4 then
          if s.n ≤ pDataBase + s.k * s.stride.toNat + 7 then (0x0, .rawOor)
          else (if s.k + 1 = 4 then 0x5 else 0x4, s.dropCause)
        else if s.phase = 0x5 then (0x6, s.dropCause)
        else if s.phase = 0x6 then
          if s.n ≤ s.plen.toNat then (0x0, .len)
          else (if s.plen = 0 then 0x8 else 0x7, s.dropCause)
        else if s.phase = 0x7 then
          if s.n ≤ pDataBase + s.k * s.stride.toNat + 7 then (0x0, .rawOor)
          else (if s.k + 1 = 4 + s.plen.toNat then 0x8 else 0x7, s.dropCause)
        else if s.phase = 0x8 then
          if s.plen.toNat < 2 then (0x0, .crcRange)
          else (if s.plen.toNat = 2 then 0xA else 0x9, s.dropCause)
        else if s.phase = 0x9 then
          (if s.k + 1 = s.plen.toNat + 2 then 0xA else 0x9, s.dropCause)
        else if s.phase = 0xA then (0xB, s.dropCause)
        else if s.phase = 0xB then
          if s.ptype = 0x55 ∧ s.plen = 0x0023 then (0xC, s.dropCause)
          else if s.ptype = 0xD5 then
            if s.plen.toNat < 9 then (0x0, .decOor) else (0xC, s.dropCause)
          else (0x0, .layout)
        else if s.phase = 0xC then
          if t.accept = 1 then (0xD, s.dropCause) else (0x0, .filter)
        else
          if s.outputBeat then (if s.k = 4 + s.plen.toNat - 1 then 0x0 else 0xD, s.dropCause)
          else (0xD, s.dropCause)) ∧
      (s.phase = 0x3 → t.k = 0) ∧
      (s.phase = 0x8 → 2 ≤ s.plen.toNat → t.k = 4) ∧
      (s.phase = 0xC → t.phase = 0xD → t.k = 0))

/-! ## The ports and the handshake -/

/-- R155 and R162: `s_ready` and `m_valid`. That the data outputs show the free value
`Config.undriven` at the edge count while `m_valid = 0` is the model's choice for "unspecified"
(log 11). -/
def Obligations.ReadyAndValidFollowPhase : Prop :=
  ∀ s : State,
    (s.sReady = true ↔ s.pins.rst = false ∧ (s.phase = 0x0 ∨ s.phase = 0x1)) ∧
    (s.mValid = true ↔ s.pins.rst = false ∧ s.phase = 0xD) ∧
    (s.mValid = false → s.outBus = Config.undriven s.edges)

/-- R198: while a byte is offered and not taken, every `m_*` output is stable. -/
def Obligations.OutputsStableWhileHeld : Prop :=
  ∀ s t : State, s.mValid = true → s.outputBeat = false → step s = .next t → t.pins.rst = false →
    t.mValid = true ∧ t.outBus = s.outBus

/-- R54, R155: outside IDLE and CAPTURE no sample is taken and `RAW` is not written. -/
def Obligations.NoSampleTakenWhileBusy : Prop :=
  ∀ s t : State, s.phase ≠ 0x0 → s.phase ≠ 0x1 → step s = .next t →
    s.inputBeat = false ∧ t.n = s.n ∧ t.token = s.token ∧ ∀ a, t.rawCell a = s.rawCell a

/-- R29, R163: only RESET writes the configuration, and outside it the `cfg_*` pins change nothing. -/
def Obligations.OnlyResetReadsAndWritesConfiguration : Prop :=
  ∀ (i : Instr) (s : State), i ≠ .reset →
    (∀ t, exec i s = .next t → t.cfg = s.cfg) ∧
    (∀ c : FilterConfig,
      exec i { s with pins := { s.pins with cfg := c } } =
        mapNext (fun t => { t with pins := { t.pins with cfg := c } }) (exec i s))

/-- Each register is written only by its own operations (10_state.md R23 to R34), for every operation
that answers a next state. `PHASE`, which every operation writes, `CFG_*` and `DROP_CAUSE` have
statements of their own: PhaseTransitionsFollowTable, OnlyResetReadsAndWritesConfiguration,
DropCausesHaveTheirRaisers. The clauses on `pins` and `schedule` (log 8), `outbox` (log 10) and `edges`
(log 11) are about the model's own fields. -/
def Obligations.RegistersHaveTheirWriters : Prop :=
  ∀ (i : Instr) (s t : State), exec i s = .next t →
    (i ≠ .captureFirst → t.token = s.token) ∧
    (i ≠ .captureFirst → i ≠ .capture → t.n = s.n) ∧
    (i ≠ .genG4 → i ≠ .genG5 → t.gen = s.gen ∧ t.stride = s.stride) ∧
    (i ≠ .genG4 → i ≠ .genG5 → i ≠ .demapHdr → i ≠ .demapPay → i ≠ .crcInit → i ≠ .crcByte →
      i ≠ .filter → i ≠ .emitByte → t.k = s.k) ∧
    (i ≠ .hdrParse → t.ptype = s.ptype ∧ t.plen = s.plen) ∧
    (i ≠ .crcInit → i ≠ .crcByte → t.crc = s.crc) ∧
    (i ≠ .crcCmp → t.crcMatch = s.crcMatch) ∧
    (i ≠ .extractL55 → i ≠ .extractLd5 →
      t.layout = s.layout ∧ t.meterId = s.meterId ∧ t.meterId2 = s.meterId2 ∧
        t.upTime = s.upTime) ∧
    (i ≠ .filter → t.accept = s.accept) ∧
    (i ≠ .emitByte → t.outbox = s.outbox) ∧
    t.pins = s.pins ∧ t.schedule = s.schedule ∧ t.edges = s.edges

/-- R35, R36, R54, R55: only capture writes `RAW` and only the demap operations write `DEC`, each one
cell: `RAW[0]`, `RAW[N]`, `DEC[K]`. -/
def Obligations.CellsHaveTheirWriters : Prop :=
  ∀ (i : Instr) (s t : State), exec i s = .next t →
    (∀ a, (i = .captureFirst → a ≠ 0) → (i = .capture → a ≠ s.n) → t.rawCell a = s.rawCell a) ∧
    (∀ a, (i = .demapHdr ∨ i = .demapPay → a ≠ s.k) → t.decCell a = s.decCell a)

/-- R171: the code of each cause, and which operation records which cause. EXTRACT_L55 with a length
too short for its fields is left out: its row's key fixes the length to 0x0023 (R131, log 23). -/
def Obligations.DropCausesHaveTheirRaisers : Prop :=
  ([DropCause.none, .short, .rawOor, .len, .crcRange, .layout, .decOor, .filter].map dropCode =
    [0, 1, 2, 3, 4, 5, 6, 7]) ∧
  (∀ (i : Instr) (s t : State), exec i s = .next t → (i = .extractL55 → 24 ≤ s.plen.toNat) →
    t.dropCause = s.dropCause ∨
    (i = .captureFirst ∨ i = .reset) ∧ t.dropCause = .none ∨
    i = .guard ∧ t.dropCause = .short ∨
    (i = .demapHdr ∨ i = .demapPay) ∧ t.dropCause = .rawOor ∨
    i = .lchk ∧ t.dropCause = .len ∨
    i = .crcInit ∧ t.dropCause = .crcRange ∨
    i = .extractReject ∧ t.dropCause = .layout ∨
    i = .extractLd5 ∧ t.dropCause = .decOor ∨
    i = .filter ∧ t.dropCause = .filter ∨
    i = .drop t.dropCause)

/-- R174: no output shows `DROP_CAUSE` and none pulses on a drop; `DROP_CAUSE` influences nothing but
itself. -/
def Obligations.DropCauseIsInvisible : Prop :=
  (∀ (s : State) (c : DropCause),
    ({ s with dropCause := c } : State).portView = s.portView ∧
    mapNext (fun t => { t with dropCause := .none }) (step { s with dropCause := c }) =
      mapNext (fun t => { t with dropCause := .none }) (step s)) ∧
  (∀ (s : State) (c c' : DropCause),
    (takeDrop c s).portView = (takeDrop c' s).portView ∧ (takeDrop c s).mValid = false ∧
    (takeDrop c s).outbox = s.outbox)

/-- R7, R23, with the width `P_META_W` open (log 1): the width is at least 1, every `m_meta` fits it,
driven or not; the token changes only when an input beat passes in IDLE, and then to `s_meta`;
`m_meta` is `META` while `m_valid = 1`; and no operation widens a token: for every width that the
tokens on the pins and in `META` fit, they still fit it after a step, and so does every `m_meta` the
block drives. -/
def Obligations.MetadataWidthIsKept : Prop :=
  1 ≤ Config.pMetaW ∧
  (∀ s : State, s.outBus.token.toNat < 2 ^ Config.pMetaW ∧
    (s.mValid = true → s.outBus.token = s.token)) ∧
  (∀ s t : State, step s = .next t →
    t.token = s.token ∨ s.phase = 0x0 ∧ s.inputBeat = true ∧ t.token = s.pins.sMeta) ∧
  ∀ (width : Nat) (s t : State), step s = .next t →
    s.token.toNat < 2 ^ width ∧ s.pins.sMeta.toNat < 2 ^ width ∧
      (∀ p ∈ s.schedule, p.sMeta.toNat < 2 ^ width) →
    t.token.toNat < 2 ^ width ∧ t.pins.sMeta.toNat < 2 ^ width ∧
      (∀ p ∈ t.schedule, p.sMeta.toNat < 2 ^ width) ∧
      (t.mValid = true → t.outBus.token.toNat < 2 ^ width)

/-! ## Reset and the invariant -/

/-- R41: what holds after RESET, from every state (with `s_ready` 0 while `rst` stays asserted), and of
the model's own states after reset; the registers the table leaves unspecified are not spoken of. -/
def Obligations.ResetStateValues : Prop :=
  (∀ s t : State, exec .reset s = .next t →
    t.phase = 0x0 ∧ t.cfg = s.pins.cfg ∧ t.dropCause = .none ∧ t.mValid = false ∧
    (t.pins.rst = true → t.sReady = false) ∧ (t.pins.rst = false → t.sReady = true) ∧
    (∀ a, t.rawCell a = s.rawCell a) ∧ (∀ a, t.decCell a = s.decCell a)) ∧
  (∀ cfg : FilterConfig,
    (State.resetWith cfg).phase = 0x0 ∧ (State.resetWith cfg).cfg = cfg ∧
    (State.resetWith cfg).dropCause = .none ∧ (State.resetWith cfg).mValid = false ∧
    ((State.resetWith cfg).pins.rst = false → (State.resetWith cfg).sReady = true))

/-- The invariant holds right after reset, for every configuration. -/
def Obligations.ResetSatisfiesInvariant : Prop :=
  ∀ cfg : FilterConfig, Inv (State.resetWith cfg)

/-- Both buffers keep their canonical form: the indices are those the buffer has (R50), and the
written cells stand as a strictly rising list, which is the model's own form (log 5). -/
def Obligations.StepKeepsBuffersCanonical : Prop :=
  ∀ s t : State, MemoryOk s → step s = .next t → MemoryOk t

/-- The sequencer's invariant is inductive (R39, R40, R117, R157). -/
def Obligations.StepKeepsInvariant : Prop :=
  ∀ s t : State, Inv s → step s = .next t → Inv t

/-- In a state that meets the invariant a step never faults and is never refused. -/
def Obligations.InvariantStatesNeverFault : Prop :=
  ∀ s : State, Inv s → ∃ t, step s = .next t

/-- R40 on buffer cells: the selected operation reads only cells that have been written for the
current message, inside the bounds of R52 and R56. What it reads is what `rawReads` and `decReads` list:
two states that differ in other cells alone select the same operation, and its outcomes agree. -/
def Obligations.OnlyWrittenCellsAreRead : Prop :=
  (∀ (s : State) (i : Instr), Inv s → decode s.selector = .ok i →
    (∀ a ∈ rawReads i s, s.rawWritten a ∧ a < s.n) ∧
    (∀ a ∈ decReads i s, s.decWritten a ∧ (i ≠ .hdrParse → a < s.decLen) ∧
      s.byteIndex a + 7 < s.n ∧ s.decCell a = s.byteAtCursor (s.byteIndex a))) ∧
  (∀ (i : Instr) (s s' : State), SameReads i s s' →
    (decode s.selector = .ok i → decode s'.selector = .ok i) ∧
    outcomesAgree s s' (exec i s) (exec i s'))

/-- The registers held as natural numbers stay inside their widths: `N` in 20 bits (R24), `K` in 17
bits with values up to 65539 (R26). Log 12. -/
def Obligations.CountersFitTheirWidths : Prop :=
  ∀ s : State, Inv s → s.n < 2 ^ 20 ∧ s.k ≤ 65539 ∧ s.k < 2 ^ 17 ∧ (s.phase = 0xD → s.decLen < 2 ^ 17)

/-- R136: a message that reaches FILTER has one of two layouts. -/
def Obligations.FilterSeesTwoLayouts : Prop :=
  ∀ s : State, Inv s → s.phase = 0xC →
    s.layout = 1 ∧ s.plen.toNat = 35 ∨ s.layout = 2 ∧ 9 ≤ s.plen.toNat

/-- R62: a byte goes out only in EMIT, after FILTER has set `ACCEPT = 1`. -/
def Obligations.NothingEmittedBeforeAcceptance : Prop :=
  ∀ s t : State, Inv s → step s = .next t →
    (t.outbox = s.outbox ∨
      s.phase = 0xD ∧ s.accept = 1 ∧ s.accepted = true ∧ t.outbox = s.outbox ++ [s.driven])

/-! ## The CRC -/

/-- R125: CRC_INIT, CRC_BYTE for each byte of the CRC range, and CRC_CMP together take `PLEN` steps and
leave `CRC_MATCH` as `crc16` over `DEC[4 .. PLEN+1]` against the stored CRC. -/
def Obligations.CrcStageComputesCrc16 : Prop :=
  ∀ s : State, s.phase = 0x8 → 2 ≤ s.plen.toNat → s.noReset →
    ∃ t, steps s.plen.toNat s = .next t ∧ t.phase = 0xB ∧
      t.crc = crc16 s.cfg.crcInit (s.decBytes 4 (s.plen.toNat - 2)) ∧
      (t.crcMatch = 1 ↔
        crc16 s.cfg.crcInit (s.decBytes 4 (s.plen.toNat - 2)) = s.dec16 (s.plen.toNat + 2)) ∧
      { t with phase := s.phase, crc := s.crc, crcMatch := s.crcMatch, k := s.k, pins := s.pins,
               schedule := s.schedule, edges := s.edges } = s

/-- R124, "no carries": the CRC of the XOR of two messages of one length, under the XOR of their
seeds, is the XOR of their CRCs. -/
def Obligations.CrcIsXorLinear : Prop :=
  ∀ (init init' : Half) (bytes bytes' : List Byte), bytes.length = bytes'.length →
    crc16 (init ^^^ init') (List.zipWith (· ^^^ ·) bytes bytes') =
      crc16 init bytes ^^^ crc16 init' bytes'

/-! ## Whole messages -/

/-- R158 at the output port: in EMIT, `decode` of the captured message is a packet, and the beat
offered is that packet's beat number `K`. -/
def Obligations.EmitOffersBeatOfDecodedPacket : Prop :=
  ∀ s : State, Inv s → s.phase = 0xD →
    ∃ p, decodeMessage s.token s.samples s.cfg = some p ∧ p.bytes.length = s.decLen ∧
      s.k < p.bytes.length ∧ s.driven = p.beat s.k

/-- R158 at a drop: a step that ends a message without reaching EMIT does so only when `decode` of
the captured message is none. -/
def Obligations.DropOnlyWhereDecodeGivesNone : Prop :=
  ∀ s t : State, Inv s → s.pins.rst = false → s.phase ≠ 0x0 → s.phase ≠ 0xD →
    step s = .next t → t.phase = 0x0 →
    decodeMessage s.token s.samples s.cfg = none ∧ t.dropCause ≠ .none

/-- R202: from GUARD, with no reset, a captured message reaches IDLE or EMIT, with no byte sent on the
way: within 6 operations where its header is not decoded, and otherwise within `10 + 2 * PLEN`
operations for the length in its own decoded header, exactly that many where it reaches EMIT. -/
def Obligations.ProcessingEndsWithinWorkBound : Prop :=
  ∀ s : State, Inv s → s.phase = 0x2 → s.noReset →
    ∃ count t, steps count s = .next t ∧ t.outbox = s.outbox ∧
      (t.phase = 0x0 ∧ count ≤ 6 ∨
        t.decodedUpTo 4 ∧ t.plen = t.dec16 2 ∧ count ≤ 10 + 2 * t.plen.toNat ∧
          (t.phase = 0x0 ∨ t.phase = 0xD ∧ count = 10 + 2 * t.plen.toNat))

/-- R158: a whole message presented from IDLE to a consumer that is ready puts exactly the beats of
`decode`'s packet on the output port, or none, and the block is back in IDLE: after every number of
steps that covers the message's samples and the work of R202 (capture, `10 + 2 * PLEN`, and
`4 + PLEN` beats). The pins at each edge and the record of the beats sent are the model's own fields
(logs 8 and 10). -/
def Obligations.WholeMessageRunComputesDecode : Prop :=
  ∀ (s : State) (token : Token) (samples : List Byte) (cfgPins : FilterConfig),
    s.phase = 0x0 → samples ≠ [] →
    s.pins :: s.schedule = messagePins cfgPins token samples ++ [quietPins cfgPins] →
    ∀ count, samples.length + 14 + 3 * 65535 ≤ count →
      ∃ t, steps count s = .next t ∧ t.phase = 0x0 ∧ t.cfg = s.cfg ∧
        t.outbox = s.outbox ++ beatsOf (decodeMessage token samples s.cfg)

/-- R39: what an earlier message left behind never matters: two blocks in IDLE with the same
configuration and the same host put the same beats out and show the same ports, for ever. -/
def Obligations.StaleStateNeverMatters : Prop :=
  ∀ s s' : State, s.phase = 0x0 → s'.phase = 0x0 → s.cfg = s'.cfg → s.pins = s'.pins →
    s.schedule = s'.schedule →
    ∀ (count : Nat) (t : State), steps count s = .next t →
      ∃ t' sent, steps count s' = .next t' ∧
        t.outbox = s.outbox ++ sent ∧ t'.outbox = s'.outbox ++ sent ∧
        t.portView = t'.portView

/-- R86: exactly how many samples a given number of decoded bytes needs. -/
def Obligations.DecodableExactlyFromSampleCount : Prop :=
  ∀ (samples : List Byte) (stride count : Nat), 0 < count →
    ((messageBytes samples stride 0 count).isSome ↔
      pDataBase + (count - 1) * stride + 8 ≤ samples.length)

/-- R159: the closed form of acceptance. -/
def Obligations.AcceptanceClosedForm : Prop :=
  ∀ (token : Token) (samples : List Byte) (cfg : FilterConfig),
    let stride := (strideOf (sampleBit samples 0)).toNat
    let byte := fun k => (BitVec.ofNat 8 (sumOfBits samples (pDataBase + k * stride)) : Byte)
    let ptype := byte 1
    let plen : Half := byte 2 ++ byte 3
    let dec := (List.range (4 + plen.toNat)).map byte
    let meterId := if ptype = 0x55 then be32At dec 24 else be32At dec 9
    let meterId2 := if ptype = 0x55 then 0 else be32At dec 5
    (decodeMessage token samples cfg).isSome ↔
      pDataBase + 3 * stride + 8 ≤ samples.length ∧
      pDataBase + (plen.toNat + 3) * stride + 8 ≤ samples.length ∧
      (ptype = 0x55 ∧ plen = 0x0023 ∨ ptype = 0xD5 ∧ 9 ≤ plen.toNat) ∧
      (messageCrcMatch cfg dec plen = true ∨ cfg.crcEn = 0) ∧
      (meterId = cfg.meterId ∨ meterId2 = cfg.meterId ∨ cfg.meterId = 0) ∧
      (plen = cfg.plen ∨ cfg.plen = 0) ∧ (ptype = cfg.ptype ∨ cfg.ptype = 0)

/-- R116: every message LCHK drops, DEMAP_PAY would drop: with `1 <= L` and `N <= L` the frame body
cannot be decoded, at either stride. -/
def Obligations.LengthCheckNeverChangesOutput : Prop :=
  ∀ (samples : List Byte) (gen : Bit) (len : Nat), 1 ≤ len → samples.length ≤ len →
    messageBytes samples (strideOf gen).toNat 4 len = none

/-- R53: samples at `RAW_CAP` and above never change a result. -/
def Obligations.SamplesPastRawCapNeverMatter : Prop :=
  ∀ (token : Token) (samples : List Byte) (cfg : FilterConfig),
    decodeMessage token (samples.take rawCap) cfg = decodeMessage token samples cfg

/-- R77, R104: a message's packet depends only on its number of samples and on the truth values of the
marker and of the data bits of its decoded bytes, the header and as many more as the header's length
says (R75, R79); framing samples, samples after the last decoded byte and the particular non-zero
values used do not matter. -/
def Obligations.OnlyMarkerAndDataBitsMatter : Prop :=
  ∀ (token : Token) (samples samples' : List Byte) (cfg : FilterConfig),
    let stride := (strideOf (sampleBit samples 0)).toNat
    let byte := fun k => (BitVec.ofNat 8 (sumOfBits samples (pDataBase + k * stride)) : Byte)
    let plen : Half := byte 2 ++ byte 3
    samples.length = samples'.length → sampleBit samples 0 = sampleBit samples' 0 →
    (∀ k j, k < 4 + plen.toNat → j < 8 →
      sampleBit samples (pDataBase + k * stride + j) =
        sampleBit samples' (pDataBase + k * stride + j)) →
    decodeMessage token samples cfg = decodeMessage token samples' cfg

/-- R145: setting one filter field to its sentinel never turns an accepted message into a dropped one:
the same packet still comes out. -/
def Obligations.FilterIsMonotone : Prop :=
  ∀ (token : Token) (samples : List Byte) (cfg relaxed : FilterConfig) (p : Packet),
    relaxed = { cfg with crcEn := 0 } ∨ relaxed = { cfg with meterId := 0 } ∨
      relaxed = { cfg with plen := 0 } ∨ relaxed = { cfg with ptype := 0 } →
    decodeMessage token samples cfg = some p → decodeMessage token samples relaxed = some p

/-- R146: the three kinds of configuration that accept nothing. -/
def Obligations.SomeConfigurationsAcceptNothing : Prop :=
  ∀ (token : Token) (samples : List Byte) (cfg : FilterConfig),
    cfg.ptype ≠ 0 ∧ cfg.ptype ≠ 0x55 ∧ cfg.ptype ≠ 0xD5 ∨
      cfg.ptype = 0x55 ∧ cfg.plen ≠ 0 ∧ cfg.plen ≠ 0x0023 ∨
      1 ≤ cfg.plen.toNat ∧ cfg.plen.toNat ≤ 8 →
    decodeMessage token samples cfg = none

/-- The round trip (R92, and the property L1.4 of 95_test_vectors.md): the expansion of any byte
sequence decodes to exactly those bytes, at either stride, and a well-sized packet passes the frame
parser with its own header. -/
def Obligations.ExpansionRoundTrip : Prop :=
  ∀ m : Msg, m.cut = none → (∀ b, m.raw0 = some b → bitOf b = m.gen) →
    messageBytes m.expand (strideOf m.gen).toNat 0 m.bytes.length = some m.bytes ∧
    (∀ cfg : FilterConfig, m.bytes.length = 4 + (be16At m.bytes 2).toNat →
      decodeMessage m.token m.expand cfg =
        acceptDecoded m.token m.bytes (m.bytes.getD 1 0) (be16At m.bytes 2) cfg)
end

