-- ==== Sys2Proof/Laws/State.lean ====
section
/-!
SUPPORT. What each named update of the state does to each field: one lemma per field per update, so that
no later proof unfolds a record update.
-/

namespace Sys2Proof.Machine

/-! ## `toPhase` -/

@[simp] theorem toPhase_phase (s : State) (p : Phase) : (s.toPhase p).phase = p := rfl
@[simp] theorem toPhase_token (s : State) (p : Phase) : (s.toPhase p).token = s.token := rfl
@[simp] theorem toPhase_n (s : State) (p : Phase) : (s.toPhase p).n = s.n := rfl
@[simp] theorem toPhase_gen (s : State) (p : Phase) : (s.toPhase p).gen = s.gen := rfl
@[simp] theorem toPhase_stride (s : State) (p : Phase) : (s.toPhase p).stride = s.stride := rfl
@[simp] theorem toPhase_k (s : State) (p : Phase) : (s.toPhase p).k = s.k := rfl
@[simp] theorem toPhase_ptype (s : State) (p : Phase) : (s.toPhase p).ptype = s.ptype := rfl
@[simp] theorem toPhase_plen (s : State) (p : Phase) : (s.toPhase p).plen = s.plen := rfl
@[simp] theorem toPhase_crc (s : State) (p : Phase) : (s.toPhase p).crc = s.crc := rfl
@[simp] theorem toPhase_crcMatch (s : State) (p : Phase) : (s.toPhase p).crcMatch = s.crcMatch := rfl
@[simp] theorem toPhase_layout (s : State) (p : Phase) : (s.toPhase p).layout = s.layout := rfl
@[simp] theorem toPhase_meterId (s : State) (p : Phase) : (s.toPhase p).meterId = s.meterId := rfl
@[simp] theorem toPhase_meterId2 (s : State) (p : Phase) : (s.toPhase p).meterId2 = s.meterId2 := rfl
@[simp] theorem toPhase_upTime (s : State) (p : Phase) : (s.toPhase p).upTime = s.upTime := rfl
@[simp] theorem toPhase_accept (s : State) (p : Phase) : (s.toPhase p).accept = s.accept := rfl
@[simp] theorem toPhase_dropCause (s : State) (p : Phase) : (s.toPhase p).dropCause = s.dropCause := rfl
@[simp] theorem toPhase_cfg (s : State) (p : Phase) : (s.toPhase p).cfg = s.cfg := rfl
@[simp] theorem toPhase_raw (s : State) (p : Phase) : (s.toPhase p).raw = s.raw := rfl
@[simp] theorem toPhase_dec (s : State) (p : Phase) : (s.toPhase p).dec = s.dec := rfl
@[simp] theorem toPhase_pins (s : State) (p : Phase) : (s.toPhase p).pins = s.pins := rfl
@[simp] theorem toPhase_schedule (s : State) (p : Phase) : (s.toPhase p).schedule = s.schedule := rfl
@[simp] theorem toPhase_outbox (s : State) (p : Phase) : (s.toPhase p).outbox = s.outbox := rfl
@[simp] theorem toPhase_edges (s : State) (p : Phase) : (s.toPhase p).edges = s.edges := rfl

/-! ## `storeRaw` -/

@[simp] theorem storeRaw_phase (s : State) (i : Nat) (b : Bit) : (s.storeRaw i b).phase = s.phase := rfl
@[simp] theorem storeRaw_token (s : State) (i : Nat) (b : Bit) : (s.storeRaw i b).token = s.token := rfl
@[simp] theorem storeRaw_n (s : State) (i : Nat) (b : Bit) : (s.storeRaw i b).n = s.n := rfl
@[simp] theorem storeRaw_gen (s : State) (i : Nat) (b : Bit) : (s.storeRaw i b).gen = s.gen := rfl
@[simp] theorem storeRaw_stride (s : State) (i : Nat) (b : Bit) : (s.storeRaw i b).stride = s.stride := rfl
@[simp] theorem storeRaw_k (s : State) (i : Nat) (b : Bit) : (s.storeRaw i b).k = s.k := rfl
@[simp] theorem storeRaw_ptype (s : State) (i : Nat) (b : Bit) : (s.storeRaw i b).ptype = s.ptype := rfl
@[simp] theorem storeRaw_plen (s : State) (i : Nat) (b : Bit) : (s.storeRaw i b).plen = s.plen := rfl
@[simp] theorem storeRaw_crc (s : State) (i : Nat) (b : Bit) : (s.storeRaw i b).crc = s.crc := rfl
@[simp] theorem storeRaw_crcMatch (s : State) (i : Nat) (b : Bit) : (s.storeRaw i b).crcMatch = s.crcMatch := rfl
@[simp] theorem storeRaw_layout (s : State) (i : Nat) (b : Bit) : (s.storeRaw i b).layout = s.layout := rfl
@[simp] theorem storeRaw_meterId (s : State) (i : Nat) (b : Bit) : (s.storeRaw i b).meterId = s.meterId := rfl
@[simp] theorem storeRaw_meterId2 (s : State) (i : Nat) (b : Bit) : (s.storeRaw i b).meterId2 = s.meterId2 := rfl
@[simp] theorem storeRaw_upTime (s : State) (i : Nat) (b : Bit) : (s.storeRaw i b).upTime = s.upTime := rfl
@[simp] theorem storeRaw_accept (s : State) (i : Nat) (b : Bit) : (s.storeRaw i b).accept = s.accept := rfl
@[simp] theorem storeRaw_dropCause (s : State) (i : Nat) (b : Bit) : (s.storeRaw i b).dropCause = s.dropCause := rfl
@[simp] theorem storeRaw_cfg (s : State) (i : Nat) (b : Bit) : (s.storeRaw i b).cfg = s.cfg := rfl
@[simp] theorem storeRaw_raw (s : State) (i : Nat) (b : Bit) : (s.storeRaw i b).raw = Memory.write s.raw i b := rfl
@[simp] theorem storeRaw_dec (s : State) (i : Nat) (b : Bit) : (s.storeRaw i b).dec = s.dec := rfl
@[simp] theorem storeRaw_pins (s : State) (i : Nat) (b : Bit) : (s.storeRaw i b).pins = s.pins := rfl
@[simp] theorem storeRaw_schedule (s : State) (i : Nat) (b : Bit) : (s.storeRaw i b).schedule = s.schedule := rfl
@[simp] theorem storeRaw_outbox (s : State) (i : Nat) (b : Bit) : (s.storeRaw i b).outbox = s.outbox := rfl
@[simp] theorem storeRaw_edges (s : State) (i : Nat) (b : Bit) : (s.storeRaw i b).edges = s.edges := rfl

/-! ## `storeDec` -/

@[simp] theorem storeDec_phase (s : State) (i : Nat) (v : Byte) : (s.storeDec i v).phase = s.phase := rfl
@[simp] theorem storeDec_token (s : State) (i : Nat) (v : Byte) : (s.storeDec i v).token = s.token := rfl
@[simp] theorem storeDec_n (s : State) (i : Nat) (v : Byte) : (s.storeDec i v).n = s.n := rfl
@[simp] theorem storeDec_gen (s : State) (i : Nat) (v : Byte) : (s.storeDec i v).gen = s.gen := rfl
@[simp] theorem storeDec_stride (s : State) (i : Nat) (v : Byte) : (s.storeDec i v).stride = s.stride := rfl
@[simp] theorem storeDec_k (s : State) (i : Nat) (v : Byte) : (s.storeDec i v).k = s.k := rfl
@[simp] theorem storeDec_ptype (s : State) (i : Nat) (v : Byte) : (s.storeDec i v).ptype = s.ptype := rfl
@[simp] theorem storeDec_plen (s : State) (i : Nat) (v : Byte) : (s.storeDec i v).plen = s.plen := rfl
@[simp] theorem storeDec_crc (s : State) (i : Nat) (v : Byte) : (s.storeDec i v).crc = s.crc := rfl
@[simp] theorem storeDec_crcMatch (s : State) (i : Nat) (v : Byte) : (s.storeDec i v).crcMatch = s.crcMatch := rfl
@[simp] theorem storeDec_layout (s : State) (i : Nat) (v : Byte) : (s.storeDec i v).layout = s.layout := rfl
@[simp] theorem storeDec_meterId (s : State) (i : Nat) (v : Byte) : (s.storeDec i v).meterId = s.meterId := rfl
@[simp] theorem storeDec_meterId2 (s : State) (i : Nat) (v : Byte) : (s.storeDec i v).meterId2 = s.meterId2 := rfl
@[simp] theorem storeDec_upTime (s : State) (i : Nat) (v : Byte) : (s.storeDec i v).upTime = s.upTime := rfl
@[simp] theorem storeDec_accept (s : State) (i : Nat) (v : Byte) : (s.storeDec i v).accept = s.accept := rfl
@[simp] theorem storeDec_dropCause (s : State) (i : Nat) (v : Byte) : (s.storeDec i v).dropCause = s.dropCause := rfl
@[simp] theorem storeDec_cfg (s : State) (i : Nat) (v : Byte) : (s.storeDec i v).cfg = s.cfg := rfl
@[simp] theorem storeDec_raw (s : State) (i : Nat) (v : Byte) : (s.storeDec i v).raw = s.raw := rfl
@[simp] theorem storeDec_dec (s : State) (i : Nat) (v : Byte) : (s.storeDec i v).dec = Memory.write s.dec i v := rfl
@[simp] theorem storeDec_pins (s : State) (i : Nat) (v : Byte) : (s.storeDec i v).pins = s.pins := rfl
@[simp] theorem storeDec_schedule (s : State) (i : Nat) (v : Byte) : (s.storeDec i v).schedule = s.schedule := rfl
@[simp] theorem storeDec_outbox (s : State) (i : Nat) (v : Byte) : (s.storeDec i v).outbox = s.outbox := rfl
@[simp] theorem storeDec_edges (s : State) (i : Nat) (v : Byte) : (s.storeDec i v).edges = s.edges := rfl

/-! ## `takeDrop` -/

@[simp] theorem takeDrop_phase (s : State) (c : DropCause) : (takeDrop c s).phase = phIdle := rfl
@[simp] theorem takeDrop_token (s : State) (c : DropCause) : (takeDrop c s).token = s.token := rfl
@[simp] theorem takeDrop_n (s : State) (c : DropCause) : (takeDrop c s).n = s.n := rfl
@[simp] theorem takeDrop_gen (s : State) (c : DropCause) : (takeDrop c s).gen = s.gen := rfl
@[simp] theorem takeDrop_stride (s : State) (c : DropCause) : (takeDrop c s).stride = s.stride := rfl
@[simp] theorem takeDrop_k (s : State) (c : DropCause) : (takeDrop c s).k = s.k := rfl
@[simp] theorem takeDrop_ptype (s : State) (c : DropCause) : (takeDrop c s).ptype = s.ptype := rfl
@[simp] theorem takeDrop_plen (s : State) (c : DropCause) : (takeDrop c s).plen = s.plen := rfl
@[simp] theorem takeDrop_crc (s : State) (c : DropCause) : (takeDrop c s).crc = s.crc := rfl
@[simp] theorem takeDrop_crcMatch (s : State) (c : DropCause) : (takeDrop c s).crcMatch = s.crcMatch := rfl
@[simp] theorem takeDrop_layout (s : State) (c : DropCause) : (takeDrop c s).layout = s.layout := rfl
@[simp] theorem takeDrop_meterId (s : State) (c : DropCause) : (takeDrop c s).meterId = s.meterId := rfl
@[simp] theorem takeDrop_meterId2 (s : State) (c : DropCause) : (takeDrop c s).meterId2 = s.meterId2 := rfl
@[simp] theorem takeDrop_upTime (s : State) (c : DropCause) : (takeDrop c s).upTime = s.upTime := rfl
@[simp] theorem takeDrop_accept (s : State) (c : DropCause) : (takeDrop c s).accept = s.accept := rfl
@[simp] theorem takeDrop_dropCause (s : State) (c : DropCause) : (takeDrop c s).dropCause = c := rfl
@[simp] theorem takeDrop_cfg (s : State) (c : DropCause) : (takeDrop c s).cfg = s.cfg := rfl
@[simp] theorem takeDrop_raw (s : State) (c : DropCause) : (takeDrop c s).raw = s.raw := rfl
@[simp] theorem takeDrop_dec (s : State) (c : DropCause) : (takeDrop c s).dec = s.dec := rfl
@[simp] theorem takeDrop_pins (s : State) (c : DropCause) : (takeDrop c s).pins = s.pins := rfl
@[simp] theorem takeDrop_schedule (s : State) (c : DropCause) : (takeDrop c s).schedule = s.schedule := rfl
@[simp] theorem takeDrop_outbox (s : State) (c : DropCause) : (takeDrop c s).outbox = s.outbox := rfl
@[simp] theorem takeDrop_edges (s : State) (c : DropCause) : (takeDrop c s).edges = s.edges := rfl

/-! ## `advance` -/

@[simp] theorem advance_phase (s : State) : (s.advance).phase = s.phase := rfl
@[simp] theorem advance_token (s : State) : (s.advance).token = s.token := rfl
@[simp] theorem advance_n (s : State) : (s.advance).n = s.n := rfl
@[simp] theorem advance_gen (s : State) : (s.advance).gen = s.gen := rfl
@[simp] theorem advance_stride (s : State) : (s.advance).stride = s.stride := rfl
@[simp] theorem advance_k (s : State) : (s.advance).k = s.k := rfl
@[simp] theorem advance_ptype (s : State) : (s.advance).ptype = s.ptype := rfl
@[simp] theorem advance_plen (s : State) : (s.advance).plen = s.plen := rfl
@[simp] theorem advance_crc (s : State) : (s.advance).crc = s.crc := rfl
@[simp] theorem advance_crcMatch (s : State) : (s.advance).crcMatch = s.crcMatch := rfl
@[simp] theorem advance_layout (s : State) : (s.advance).layout = s.layout := rfl
@[simp] theorem advance_meterId (s : State) : (s.advance).meterId = s.meterId := rfl
@[simp] theorem advance_meterId2 (s : State) : (s.advance).meterId2 = s.meterId2 := rfl
@[simp] theorem advance_upTime (s : State) : (s.advance).upTime = s.upTime := rfl
@[simp] theorem advance_accept (s : State) : (s.advance).accept = s.accept := rfl
@[simp] theorem advance_dropCause (s : State) : (s.advance).dropCause = s.dropCause := rfl
@[simp] theorem advance_cfg (s : State) : (s.advance).cfg = s.cfg := rfl
@[simp] theorem advance_raw (s : State) : (s.advance).raw = s.raw := rfl
@[simp] theorem advance_dec (s : State) : (s.advance).dec = s.dec := rfl
@[simp] theorem advance_pins (s : State) : (s.advance).pins = s.nextPins := rfl
@[simp] theorem advance_schedule (s : State) : (s.advance).schedule = s.schedule.tail := rfl
@[simp] theorem advance_outbox (s : State) : (s.advance).outbox = s.outbox := rfl
@[simp] theorem advance_edges (s : State) : (s.advance).edges = s.edges + 1 := rfl

end Sys2Proof.Machine
end

