-- ==== Sys2Proof/Laws/Memory.lean ====
section
/-!
SUPPORT. The laws of the buffers: a read after a write, and the canonical form.
-/

namespace Sys2Proof.Machine

/-! ## Reading after writing -/

@[simp] theorem Memory.read?_write_same {w : Nat} (m : Memory w) (i : Nat) (b : BitVec w) :
    Memory.read? (Memory.write m i b) i = some b := by
  induction m with
  | nil => simp [Memory.write, Memory.read?]
  | cons p rest ih =>
    obtain ⟨a, v⟩ := p
    simp only [Memory.write]
    split_ifs with hlt heq
    · simp [Memory.read?]
    · simp [Memory.read?]
    · simp [Memory.read?, ih, Ne.symm heq]

theorem Memory.read?_write_other {w : Nat} (m : Memory w) {i j : Nat} (b : BitVec w) (h : j ≠ i) :
    Memory.read? (Memory.write m i b) j = Memory.read? m j := by
  induction m with
  | nil => simp [Memory.write, Memory.read?, Ne.symm h]
  | cons p rest ih =>
    obtain ⟨a, v⟩ := p
    simp only [Memory.write]
    split_ifs with hlt heq
    · simp [Memory.read?, Ne.symm h]
    · subst heq
      simp [Memory.read?, Ne.symm h]
    · simp [Memory.read?, ih]

theorem rawCell_storeRaw_same (s : State) (i : Nat) (b : Bit) : (s.storeRaw i b).rawCell i = b := by
  simp [State.rawCell]

theorem rawCell_storeRaw_other (s : State) {i j : Nat} (b : Bit) (h : j ≠ i) :
    (s.storeRaw i b).rawCell j = s.rawCell j := by
  simp [State.rawCell, Memory.read?_write_other _ _ h]

theorem decCell_storeDec_same (s : State) (i : Nat) (v : Byte) : (s.storeDec i v).decCell i = v := by
  simp [State.decCell]

theorem decCell_storeDec_other (s : State) {i j : Nat} (v : Byte) (h : j ≠ i) :
    (s.storeDec i v).decCell j = s.decCell j := by
  simp [State.decCell, Memory.read?_write_other _ _ h]

/-- A cell's content depends on `RAW` alone. -/
theorem rawCell_congr {s t : State} (h : t.raw = s.raw) (i : Nat) : t.rawCell i = s.rawCell i := by
  simp [State.rawCell, h]

/-- A cell's content depends on `DEC` alone. -/
theorem decCell_congr {s t : State} (h : t.dec = s.dec) (i : Nat) : t.decCell i = s.decCell i := by
  simp [State.decCell, h]

/-- What a `RAW` write leaves readable, whatever else the state change does. -/
theorem rawCell_of_write {s t : State} {i : Nat} {b : Bit} (h : t.raw = Memory.write s.raw i b) :
    t.rawCell i = b ∧ ∀ a, a ≠ i → t.rawCell a = s.rawCell a :=
  ⟨(rawCell_congr (s := s.storeRaw i b) h i).trans (rawCell_storeRaw_same s i b),
    fun a ha => (rawCell_congr (s := s.storeRaw i b) h a).trans (rawCell_storeRaw_other s b ha)⟩

/-- What a `DEC` write leaves readable, whatever else the state change does. -/
theorem decCell_of_write {s t : State} {i : Nat} {v : Byte} (h : t.dec = Memory.write s.dec i v) :
    t.decCell i = v ∧ ∀ a, a ≠ i → t.decCell a = s.decCell a :=
  ⟨(decCell_congr (s := s.storeDec i v) h i).trans (decCell_storeDec_same s i v),
    fun a ha => (decCell_congr (s := s.storeDec i v) h a).trans (decCell_storeDec_other s v ha)⟩

/-! ## The canonical form -/

theorem Memory.mem_write {w : Nat} {m : Memory w} {i : Nat} {b : BitVec w} {p : Nat × BitVec w}
    (h : p ∈ Memory.write m i b) : p = (i, b) ∨ p ∈ m := by
  induction m with
  | nil => simpa [Memory.write] using h
  | cons q rest ih =>
    obtain ⟨a, v⟩ := q
    simp only [Memory.write] at h
    split_ifs at h with hlt heq
    · simpa using h
    · rcases List.mem_cons.1 h with h | h
      · exact .inl h
      · exact .inr (List.mem_cons_of_mem _ h)
    · rcases List.mem_cons.1 h with h | h
      · exact .inr (h ▸ List.mem_cons_self)
      · exact (ih h).imp_right (List.mem_cons_of_mem _)

/-- A write inside the buffer keeps the canonical form. -/
theorem Memory.wf_write {w cap : Nat} {m : Memory w} {i : Nat} (b : BitVec w)
    (h : Memory.wf cap m) (hi : i < cap) : Memory.wf cap (Memory.write m i b) := by
  refine ⟨?_, fun p hp => ?_⟩
  · obtain ⟨hs, -⟩ := h
    induction m with
    | nil => simp [Memory.write]
    | cons q rest ih =>
      obtain ⟨a, v⟩ := q
      have hrest := List.pairwise_cons.1 hs
      simp only [Memory.write]
      split_ifs with hlt heq
      · refine List.pairwise_cons.2 ⟨fun p hp => ?_, hs⟩
        rcases List.mem_cons.1 hp with hp | hp
        · simpa [hp] using hlt
        · exact hlt.trans (hrest.1 p hp)
      · subst heq
        exact List.pairwise_cons.2 ⟨hrest.1, hrest.2⟩
      · refine List.pairwise_cons.2 ⟨fun p hp => ?_, ih hrest.2⟩
        rcases Memory.mem_write hp with hp | hp
        · subst hp
          show a < i
          omega
        · exact hrest.1 p hp
  · rcases Memory.mem_write hp with hp | hp
    · exact hp ▸ hi
    · exact h.2 p hp

theorem Memory.lt_of_read?_isSome {w cap : Nat} {m : Memory w} {i : Nat} (h : Memory.wf cap m)
    (hr : (Memory.read? m i).isSome) : i < cap := by
  obtain ⟨-, hc⟩ := h
  induction m with
  | nil => simp [Memory.read?] at hr
  | cons q rest ih =>
    obtain ⟨a, v⟩ := q
    simp only [Memory.read?] at hr
    split_ifs at hr with heq
    · exact heq ▸ hc _ List.mem_cons_self
    · exact ih hr fun p hp => hc p (List.mem_cons_of_mem _ hp)

theorem reset_raw_wf (cfg : FilterConfig) : Memory.wf rawCap (State.resetWith cfg).raw := by
  simp [Memory.wf, State.resetWith]

theorem reset_dec_wf (cfg : FilterConfig) : Memory.wf decCap (State.resetWith cfg).dec := by
  simp [Memory.wf, State.resetWith]

end Sys2Proof.Machine
end

