-- ==== Sys2Proof/Laws/Bits.lean ====
section
/-!
SUPPORT. The laws of byte assembly and of the CRC arithmetic.
-/

namespace Sys2Proof.Machine

/-- The bits of an assembled byte are the bits read, the first read being bit 0. -/
theorem assembleBits_eight (b : Fin 8 → Bit) (j : Fin 8) :
    (assembleBits [b 0, b 1, b 2, b 3, b 4, b 5, b 6, b 7]).getLsbD j = (b j).getLsbD 0 := by
  simp only [assembleBits, List.foldl_cons, List.foldl_nil, shiftInBit]
  fin_cases j <;> simp

/-- Bit `j` of the byte at a cursor is the cell `j` after it. -/
theorem byteAtCursor_getLsbD (s : State) (c : Nat) (j : Fin 8) :
    (s.byteAtCursor c).getLsbD j = (s.rawCell (c + j)).getLsbD 0 :=
  assembleBits_eight (fun j => s.rawCell (c + j)) j

/-- The byte at a cursor depends on the eight cells from the cursor on alone. -/
theorem byteAtCursor_congr {s t : State} {c : Nat}
    (h : ∀ j < 8, t.rawCell (c + j) = s.rawCell (c + j)) : t.byteAtCursor c = s.byteAtCursor c := by
  unfold State.byteAtCursor
  congr 1
  refine List.map_congr_left fun j hj => h j ?_
  simp at hj
  omega

theorem crc16_nil (init : Half) : crc16 init [] = init := by
  simp [crc16, crcXorOut]

/-- The CRC takes its bytes one after the other. -/
theorem crc16_append_one (init : Half) (bs : List Byte) (b : Byte) :
    crc16 init (bs ++ [b]) = foldCrcByte (crc16 init bs) b := by
  simp [crc16, crcXorOut]

theorem flag_eq_one (b : Bool) : flag b = 1 ↔ b = true := by
  cases b <;> simp [flag]

end Sys2Proof.Machine
end

