-- ==== Sys2Proof/Laws/Decode.lean ====
section
/-!
SUPPORT. The laws of the decode key: a key is its phase and its low 24 bits, and a row selects it when
both parts agree with the row.
-/

namespace Sys2Proof

/-- Two keys are equal when their phases and their low bits are. -/
theorem append_eq_append_iff {w v : Nat} (a c : BitVec w) (b d : BitVec v) :
    a ++ b = c ++ d ↔ a = c ∧ b = d := by
  refine ⟨fun h => ⟨?_, ?_⟩, fun ⟨h1, h2⟩ => by rw [h1, h2]⟩
  · ext i hi
    have := congrArg (fun x => x.getLsbD (v + i)) h
    simpa [BitVec.getLsbD_append, hi] using this
  · ext i hi
    have := congrArg (fun x => x.getLsbD i) h
    simpa [BitVec.getLsbD_append, hi] using this

/-- A row whose mask and value are given by phase part and data part selects a key part by part. -/
theorem OpRow.selects_append {r : OpRow} {p pm pv : BitVec 4} {d dm dv : BitVec 24}
    (hm : r.mask = pm ++ dm) (hv : r.value = pv ++ dv) :
    r.selects (p ++ d : BitVec (4 + 24)) = ((p &&& pm == pv) && (d &&& dm == dv)) := by
  unfold OpRow.selects
  rw [hm, hv, Bool.eq_iff_iff]
  simp only [beq_iff_eq, Bool.and_eq_true]
  rw [show (p ++ d : BitVec (4 + 24)) &&& (pm ++ dm) = (p &&& pm) ++ (d &&& dm) from
    BitVec.and_append]
  exact append_eq_append_iff ..

theorem extractLsb'_append_high {w v : Nat} (a : BitVec w) (b : BitVec v) :
    (a ++ b).extractLsb' v w = a := by
  ext i hi
  simp [BitVec.getLsbD_append, hi]

theorem extractLsb'_append_low {w v : Nat} (a : BitVec w) (b : BitVec v) :
    (a ++ b).extractLsb' 0 v = b := by
  ext i hi
  simp [BitVec.getLsbD_append, hi]

theorem extractLsb'_append_extractLsb' {w v : Nat} (k : BitVec (w + v)) :
    k.extractLsb' v w ++ k.extractLsb' 0 v = k := by
  simp

/-- Every key is its phase followed by its low 24 bits. -/
theorem key_eq_append (k : Key) : k = keyPhase k ++ k.extractLsb' 0 24 :=
  (extractLsb'_append_extractLsb' (w := 4) (v := 24) k).symm

/-- A row selects a key part by part: the phase against the phase bits of mask and value, the low 24
bits against theirs. -/
theorem OpRow.selects_parts (r : OpRow) (p : BitVec 4) (d : BitVec 24) :
    r.selects (p ++ d : BitVec (4 + 24)) =
      ((p &&& keyPhase r.mask == keyPhase r.value) &&
        (d &&& r.mask.extractLsb' 0 24 == r.value.extractLsb' 0 24)) :=
  OpRow.selects_append (key_eq_append r.mask) (key_eq_append r.value)

@[simp] theorem keyPhase_append (p : BitVec 4) (d : BitVec 24) :
    keyPhase (p ++ d : BitVec (4 + 24)) = p :=
  extractLsb'_append_high p d

namespace Machine

@[simp] theorem keyPhase_dkey (s : State) : keyPhase s.dkey = s.phase :=
  keyPhase_append ..

end Machine

end Sys2Proof
end

