-- ==== Sys2Proof/Laws/Ops.lean ====
section
/-!
SUPPORT. What the shared operations and the meanings can do, said once: each inversion lemma lists every
case in which an operation answers a next state.
-/

namespace Sys2Proof.Machine

/-! ## Handshakes and phases -/

theorem sReady_iff (s : State) :
    s.sReady = true ↔ s.pins.rst = false ∧ (s.phase = phIdle ∨ s.phase = phCapture) := by
  simp [State.sReady]

theorem inputBeat_iff (s : State) :
    s.inputBeat = true ↔
      s.pins.rst = false ∧ s.pins.sValid = true ∧ (s.phase = phIdle ∨ s.phase = phCapture) := by
  simp [State.inputBeat, State.sReady]
  tauto

theorem mValid_iff (s : State) : s.mValid = true ↔ s.pins.rst = false ∧ s.phase = phEmit := by
  simp [State.mValid]

theorem outputBeat_iff (s : State) :
    s.outputBeat = true ↔ s.pins.rst = false ∧ s.phase = phEmit ∧ s.pins.mReady = true := by
  simp [State.outputBeat, State.mValid, and_assoc]

/-! ## The step around an operation -/

theorem retire_next_inv {o : Host.Outcome State Fault Refusal} {t : State} (h : retire o = .next t) :
    ∃ u, o = .next u ∧ t = u.advance := by
  cases o with
  | next u => exact ⟨u, rfl, by simpa [retire] using h.symm⟩
  | fault f => simp [retire] at h
  | refused r => simp [retire] at h

/-- A step that answers a next state ran the operation the state selects. -/
theorem step_next_inv {s t : State} (h : step s = .next t) :
    ∃ i u, decode s.selector = .ok i ∧ exec i s = .next u ∧ t = u.advance := by
  unfold step at h
  split at h
  · rename_i i hi
    obtain ⟨u, hu, ht⟩ := retire_next_inv h
    exact ⟨i, u, hi, hu, ht⟩
  · cases h

theorem step_of_decode {s u : State} {i : Instr} (hi : decode s.selector = .ok i)
    (hu : exec i s = .next u) : step s = .next u.advance := by
  simp [step, hi, hu, retire]

@[simp] theorem raiseDrop_eq (c : DropCause) (s : State) : raiseDrop c s = .next (takeDrop c s) := rfl

/-! ## DEMAP_BYTE -/

/-- DEMAP_BYTE decodes exactly when all its data bits and both cells exist. -/
theorem demapByte_decoded_inv {s t : State} (h : demapByte s = .decoded t) :
    s.bitCursor + 7 < s.n ∧ s.bitCursor + 7 < rawCap ∧ s.k < decCap ∧
      t = { s.storeDec s.k (s.byteAtCursor s.bitCursor) with k := s.k + 1 } := by
  unfold demapByte at h
  simp only at h
  split_ifs at h with h1 h2 h3
  cases h
  exact ⟨by omega, by omega, by omega, rfl⟩

theorem demapByte_decoded {s : State} (h1 : s.bitCursor + 7 < s.n) (h2 : s.n ≤ rawCap)
    (h3 : s.k < decCap) :
    demapByte s = .decoded { s.storeDec s.k (s.byteAtCursor s.bitCursor) with k := s.k + 1 } := by
  unfold demapByte
  simp only
  rw [if_neg (by omega), if_neg (by omega), if_neg (by omega)]

theorem demapByte_outOfRange_iff (s : State) :
    demapByte s = .outOfRange ↔ s.n ≤ s.bitCursor + 7 := by
  unfold demapByte
  simp only
  split_ifs <;> simp_all

/-! ## The meanings: every next state they can answer -/

theorem execCaptureFirst_next_inv {s t : State} (h : execCaptureFirst s = .next t) :
    (s.inputBeat = true ∧
      t = { s.storeRaw 0 (bitOf s.pins.sSample) with
              token := s.pins.sMeta, n := 1, dropCause := .none,
              phase := phaseAfterSample s.pins.sLast }) ∨
    (s.inputBeat = false ∧ t = s) := by
  unfold execCaptureFirst at h
  split_ifs at h with hb
  · cases h; exact .inl ⟨hb, rfl⟩
  · cases h; exact .inr ⟨by simpa using hb, rfl⟩

theorem execCapture_next_inv {s t : State} (h : execCapture s = .next t) :
    (s.inputBeat = true ∧ s.n < rawCap ∧
      t = { s.storeRaw s.n (bitOf s.pins.sSample) with
              n := min (s.n + 1) rawCap, phase := phaseAfterSample s.pins.sLast }) ∨
    (s.inputBeat = true ∧ rawCap ≤ s.n ∧
      t = { s with n := min (s.n + 1) rawCap, phase := phaseAfterSample s.pins.sLast }) ∨
    (s.inputBeat = false ∧ t = s) := by
  unfold execCapture at h
  simp only at h
  split_ifs at h with hb hn
  · cases h; exact .inl ⟨hb, hn, rfl⟩
  · cases h; exact .inr (.inl ⟨hb, not_lt.1 hn, rfl⟩)
  · cases h; exact .inr (.inr ⟨by simpa using hb, rfl⟩)

theorem execGuard_next_inv {s t : State} (h : execGuard s = .next t) :
    (s.n < minSamples ∧ t = takeDrop .short s) ∨ (minSamples ≤ s.n ∧ t = s.toPhase phGen) := by
  unfold execGuard at h
  split_ifs at h with hn
  · cases h; exact .inl ⟨hn, rfl⟩
  · cases h; exact .inr ⟨not_lt.1 hn, rfl⟩

theorem execDemapHdr_next_inv {s t : State} (h : execDemapHdr s = .next t) :
    (s.n ≤ s.bitCursor + 7 ∧ t = takeDrop .rawOor s) ∨
    (s.bitCursor + 7 < s.n ∧ s.bitCursor + 7 < rawCap ∧ s.k < decCap ∧
      t = { s.storeDec s.k (s.byteAtCursor s.bitCursor) with
              k := s.k + 1, phase := if s.k + 1 = hdrLen then phHparse else phHdr }) := by
  unfold execDemapHdr at h
  split at h
  · rename_i hd
    cases h
    exact .inl ⟨(demapByte_outOfRange_iff s).1 hd, rfl⟩
  · cases h
  · rename_i u hd
    obtain ⟨h1, h2, h3, rfl⟩ := demapByte_decoded_inv hd
    cases h
    exact .inr ⟨h1, h2, h3, rfl⟩

theorem execDemapPay_next_inv {s t : State} (h : execDemapPay s = .next t) :
    (s.n ≤ s.bitCursor + 7 ∧ t = takeDrop .rawOor s) ∨
    (s.bitCursor + 7 < s.n ∧ s.bitCursor + 7 < rawCap ∧ s.k < decCap ∧
      t = { s.storeDec s.k (s.byteAtCursor s.bitCursor) with
              k := s.k + 1, phase := if s.k + 1 = s.decLen then phCrci else phPay }) := by
  unfold execDemapPay at h
  split at h
  · rename_i hd
    cases h
    exact .inl ⟨(demapByte_outOfRange_iff s).1 hd, rfl⟩
  · cases h
  · rename_i u hd
    obtain ⟨h1, h2, h3, rfl⟩ := demapByte_decoded_inv hd
    cases h
    exact .inr ⟨h1, h2, h3, rfl⟩

theorem execLchk_next_inv {s t : State} (h : execLchk s = .next t) :
    (s.n ≤ s.plen.toNat ∧ t = takeDrop .len s) ∨
    (s.plen.toNat < s.n ∧ t = s.toPhase (if s.plen = 0 then phCrci else phPay)) := by
  unfold execLchk at h
  by_cases hn : s.n > s.plen.toNat
  · rw [if_neg (by simpa using hn)] at h
    cases h
    exact .inr ⟨hn, rfl⟩
  · rw [if_pos hn] at h
    cases h
    exact .inl ⟨not_lt.1 hn, rfl⟩

theorem execCrcInit_next_inv {s t : State} (h : execCrcInit s = .next t) :
    (s.plen.toNat < 2 ∧ t = takeDrop .crcRange s) ∨
    (2 ≤ s.plen.toNat ∧
      t = { s with crc := s.cfg.crcInit, k := hdrLen,
                   phase := if s.plen.toNat = 2 then phCrcc else phCrcb }) := by
  unfold execCrcInit at h
  split_ifs at h with h2 <;> cases h
  · exact .inl ⟨h2, rfl⟩
  all_goals exact .inr ⟨not_lt.1 h2, by simp_all⟩

theorem execCrcByte_next_inv {s t : State} (h : execCrcByte s = .next t) :
    s.k < decCap ∧
      t = { s with crc := foldCrcByte s.crc (s.decCell s.k), k := s.k + 1,
                   phase := if s.k + 1 = s.plen.toNat + 2 then phCrcc else phCrcb } := by
  unfold execCrcByte at h
  by_cases hk : decCap ≤ s.k
  · rw [if_pos hk] at h
    cases h
  · rw [if_neg hk] at h
    cases h
    exact ⟨not_le.1 hk, rfl⟩

theorem decReadable_iff (s : State) (i n : Nat) : s.decReadable i n = true ↔ i + n ≤ s.decLen := by
  simp [State.decReadable]

theorem execExtractL55_next_inv {s t : State} (h : execExtractL55 s = .next t) :
    (off55Meter + 4 ≤ s.decLen ∧
      t = { s with upTime := s.dec32 off55Uptime, meterId := s.dec32 off55Meter, meterId2 := 0,
                   layout := layoutL55, phase := phFilter }) ∨
    (s.decLen < off55Meter + 4 ∧ off55Uptime + 4 ≤ s.decLen ∧
      t = takeDrop .decOor { s with upTime := s.dec32 off55Uptime }) ∨
    (s.decLen < off55Uptime + 4 ∧ t = takeDrop .decOor s) := by
  have hlen : ∀ w, ({ s with upTime := w } : State).decLen = s.decLen := fun _ => rfl
  unfold execExtractL55 at h
  simp only at h
  split_ifs at h with h1 h2
  · cases h
    rw [decReadable_iff, hlen] at h2
    exact .inl ⟨h2, rfl⟩
  · cases h
    rw [decReadable_iff] at h1
    rw [decReadable_iff, hlen] at h2
    exact .inr (.inl ⟨not_le.1 h2, h1, rfl⟩)
  · cases h
    rw [decReadable_iff] at h1
    exact .inr (.inr ⟨not_le.1 h1, rfl⟩)

theorem execExtractLd5_next_inv {s t : State} (h : execExtractLd5 s = .next t) :
    (offD5Meter + 4 ≤ s.decLen ∧
      t = { s with meterId2 := s.dec32 offD5Meter2, meterId := s.dec32 offD5Meter, upTime := 0,
                   layout := layoutLd5, phase := phFilter }) ∨
    (s.decLen < offD5Meter + 4 ∧ t = takeDrop .decOor s) := by
  unfold execExtractLd5 at h
  split_ifs at h with h1
  · cases h
    exact .inl ⟨(decReadable_iff ..).1 h1, rfl⟩
  · cases h
    rw [decReadable_iff] at h1
    exact .inr ⟨not_le.1 h1, rfl⟩

theorem execFilter_next_inv {s t : State} (h : execFilter s = .next t) :
    (s.accepted = true ∧ t = { s with accept := 1, k := 0, phase := phEmit }) ∨
    (s.accepted = false ∧ t = takeDrop .filter { s with accept := 0 }) := by
  unfold execFilter at h
  simp only at h
  cases ha : s.accepted <;> simp [ha, flag] at h
  · exact .inr ⟨rfl, h.symm⟩
  · exact .inl ⟨rfl, h.symm⟩

theorem execEmitByte_next_inv {s t : State} (h : execEmitByte s = .next t) :
    (s.outputBeat = true ∧ s.k < decCap ∧ s.k = s.decLen - 1 ∧
      t = { s with outbox := s.outbox ++ [s.driven], phase := phIdle }) ∨
    (s.outputBeat = true ∧ s.k < decCap ∧ s.k ≠ s.decLen - 1 ∧
      t = { s with outbox := s.outbox ++ [s.driven], k := s.k + 1, phase := phEmit }) ∨
    (s.outputBeat = false ∧ t = s) := by
  unfold execEmitByte at h
  simp only at h
  split_ifs at h with hb hk hl
  · cases h
    exact .inl ⟨hb, not_le.1 hk, by simpa [State.lastByte] using hl, rfl⟩
  · cases h
    exact .inr (.inl ⟨hb, not_le.1 hk, by simpa [State.lastByte] using hl, rfl⟩)
  · cases h
    exact .inr (.inr ⟨by simpa using hb, rfl⟩)

end Sys2Proof.Machine
end

