-- ==== Sys2Proof/Laws/Frame.lean ====
section
/-!
SUPPORT. When two next states agree (`SameWrites`): after a change that leaves both buffers alone, and
after one that stores the same value in the same cell.
-/

namespace Sys2Proof.Machine

/-- The same change of registers and model fields, with both buffers left alone in both. -/
theorem sameWrites_of_untouched {s s' t t' : State}
    (h : t' = { t with raw := s'.raw, dec := s'.dec }) (hr : t.raw = s.raw) (hd : t.dec = s.dec) :
    SameWrites s s' t t' := by
  subst h
  exact ⟨rfl, fun a => .inr ⟨rawCell_congr hr a, rawCell_congr rfl a⟩,
    fun a => .inr ⟨decCell_congr hd a, decCell_congr rfl a⟩⟩

/-- The same change of registers and model fields, and the same bit stored in the same `RAW` cell. -/
theorem sameWrites_of_rawWrite {s s' t t' : State} {i : Nat} {b : Bit}
    (h : t' = { t with raw := Memory.write s'.raw i b, dec := s'.dec })
    (hr : t.raw = Memory.write s.raw i b) (hd : t.dec = s.dec) : SameWrites s s' t t' := by
  subst h
  have hs := rawCell_of_write hr
  have hs' := rawCell_of_write (s := s') (i := i) (b := b)
    (t := { t with raw := Memory.write s'.raw i b, dec := s'.dec }) rfl
  refine ⟨rfl, fun a => ?_, fun a => .inr ⟨decCell_congr hd a, decCell_congr rfl a⟩⟩
  by_cases ha : a = i
  · subst ha
    exact .inl (hs'.1.trans hs.1.symm)
  · exact .inr ⟨hs.2 a ha, hs'.2 a ha⟩

/-- The same change of registers and model fields, and the same byte stored in the same `DEC` cell. -/
theorem sameWrites_of_decWrite {s s' t t' : State} {i : Nat} {v : Byte}
    (h : t' = { t with raw := s'.raw, dec := Memory.write s'.dec i v })
    (hr : t.raw = s.raw) (hd : t.dec = Memory.write s.dec i v) : SameWrites s s' t t' := by
  subst h
  have hs := decCell_of_write hd
  have hs' := decCell_of_write (s := s') (i := i) (v := v)
    (t := { t with raw := s'.raw, dec := Memory.write s'.dec i v }) rfl
  refine ⟨rfl, fun a => .inr ⟨rawCell_congr hr a, rawCell_congr rfl a⟩, fun a => ?_⟩
  by_cases ha : a = i
  · subst ha
    exact .inl (hs'.1.trans hs.1.symm)
  · exact .inr ⟨hs.2 a ha, hs'.2 a ha⟩

end Sys2Proof.Machine
end

