-- ==== Sys2Proof/Laws/PerInstr.lean ====
section
/-!
SUPPORT. One fact per operation: the key that `encode` gives for it is one that a row of the table
with that operation selects.
-/

namespace Sys2Proof.Laws

/-- A row of the table with this operation selects the key that `encode` gives for it; an operation
without a key row is selected by the pin `rst` or by nothing. -/
def EncodedKeyHasRow.Statement (i : Sys2Proof.Instr) : Prop :=
  ∀ sel, Sys2Proof.encode i = some sel →
    sel.rst = true ∨ ∃ r ∈ Sys2Proof.opTable, r.op = i ∧ r.selects sel.key = true

/-- The statement for an operation whose encoding is the given row's `match`. -/
theorem encodedKeyHasRow_of_row {i : Sys2Proof.Instr} (r : Sys2Proof.OpRow)
    (hr : r ∈ Sys2Proof.opTable) (ho : r.op = i) (hs : r.selects r.value = true)
    (he : Sys2Proof.encode i = some ⟨false, r.value⟩) : EncodedKeyHasRow.Statement i := by
  intro sel h
  rw [he] at h
  cases h
  exact .inr ⟨r, hr, ho, hs⟩

theorem EncodedKeyHasRow.captureFirst : EncodedKeyHasRow.Statement .captureFirst :=
  encodedKeyHasRow_of_row ⟨.captureFirst, 0x0000000, 0xF000000⟩ (by decide) rfl (by decide) rfl

theorem EncodedKeyHasRow.capture : EncodedKeyHasRow.Statement .capture :=
  encodedKeyHasRow_of_row ⟨.capture, 0x1000000, 0xF000000⟩ (by decide) rfl (by decide) rfl

theorem EncodedKeyHasRow.guard : EncodedKeyHasRow.Statement .guard :=
  encodedKeyHasRow_of_row ⟨.guard, 0x2000000, 0xF000000⟩ (by decide) rfl (by decide) rfl

theorem EncodedKeyHasRow.genG4 : EncodedKeyHasRow.Statement .genG4 :=
  encodedKeyHasRow_of_row ⟨.genG4, 0x3000000, 0xF000001⟩ (by decide) rfl (by decide) rfl

theorem EncodedKeyHasRow.genG5 : EncodedKeyHasRow.Statement .genG5 :=
  encodedKeyHasRow_of_row ⟨.genG5, 0x3000001, 0xF000001⟩ (by decide) rfl (by decide) rfl

theorem EncodedKeyHasRow.demapHdr : EncodedKeyHasRow.Statement .demapHdr :=
  encodedKeyHasRow_of_row ⟨.demapHdr, 0x4000000, 0xF000000⟩ (by decide) rfl (by decide) rfl

theorem EncodedKeyHasRow.hdrParse : EncodedKeyHasRow.Statement .hdrParse :=
  encodedKeyHasRow_of_row ⟨.hdrParse, 0x5000000, 0xF000000⟩ (by decide) rfl (by decide) rfl

theorem EncodedKeyHasRow.lchk : EncodedKeyHasRow.Statement .lchk :=
  encodedKeyHasRow_of_row ⟨.lchk, 0x6000000, 0xF000000⟩ (by decide) rfl (by decide) rfl

theorem EncodedKeyHasRow.demapPay : EncodedKeyHasRow.Statement .demapPay :=
  encodedKeyHasRow_of_row ⟨.demapPay, 0x7000000, 0xF000000⟩ (by decide) rfl (by decide) rfl

theorem EncodedKeyHasRow.crcInit : EncodedKeyHasRow.Statement .crcInit :=
  encodedKeyHasRow_of_row ⟨.crcInit, 0x8000000, 0xF000000⟩ (by decide) rfl (by decide) rfl

theorem EncodedKeyHasRow.crcByte : EncodedKeyHasRow.Statement .crcByte :=
  encodedKeyHasRow_of_row ⟨.crcByte, 0x9000000, 0xF000000⟩ (by decide) rfl (by decide) rfl

theorem EncodedKeyHasRow.crcCmp : EncodedKeyHasRow.Statement .crcCmp :=
  encodedKeyHasRow_of_row ⟨.crcCmp, 0xA000000, 0xF000000⟩ (by decide) rfl (by decide) rfl

theorem EncodedKeyHasRow.extractL55 : EncodedKeyHasRow.Statement .extractL55 :=
  encodedKeyHasRow_of_row ⟨.extractL55, 0xB550023, 0xFFFFFFF⟩ (by decide) rfl (by decide) rfl

theorem EncodedKeyHasRow.extractLd5 : EncodedKeyHasRow.Statement .extractLd5 :=
  encodedKeyHasRow_of_row ⟨.extractLd5, 0xBD50000, 0xFFF0000⟩ (by decide) rfl (by decide) rfl

theorem EncodedKeyHasRow.extractReject : EncodedKeyHasRow.Statement .extractReject :=
  encodedKeyHasRow_of_row ⟨.extractReject, 0xB000000, 0xF000000⟩ (by decide) rfl (by decide) rfl

theorem EncodedKeyHasRow.filter : EncodedKeyHasRow.Statement .filter :=
  encodedKeyHasRow_of_row ⟨.filter, 0xC000000, 0xF000000⟩ (by decide) rfl (by decide) rfl

theorem EncodedKeyHasRow.emitByte : EncodedKeyHasRow.Statement .emitByte :=
  encodedKeyHasRow_of_row ⟨.emitByte, 0xD000000, 0xF000000⟩ (by decide) rfl (by decide) rfl

theorem EncodedKeyHasRow.reset : EncodedKeyHasRow.Statement .reset := by
  intro sel h
  cases h
  exact .inl rfl

theorem EncodedKeyHasRow.drop (cause : Sys2Proof.DropCause) :
    EncodedKeyHasRow.Statement (.drop cause) := by
  intro sel h
  cases h

end Sys2Proof.Laws
end

