-- ==== Sys2Proof/Tests/Slice0.lean ====
section
/-!
SUPPORT. Tests: the well-formedness smoke, decoding of words written out from spec/30_encoding.md R88 and
R89, one step per operation with the values of spec/95_test_vectors.md, and for every obligation with
hypotheses a witness that meets them.
-/

namespace Sys2Proof.Tests

open Sys2Proof.Machine

/-! ## Well-formedness -/

theorem test_wellFormed_refuses_drop_none : Instr.wellFormed (.drop .none) = false := by decide

theorem test_wellFormed_accepts_raised_drops :
    ∀ c ∈ [DropCause.short, .rawOor, .len, .crcRange, .layout, .decOor, .filter],
      Instr.wellFormed (.drop c) = true := by decide

/-! ## Decoding: phase in bits 27..24, then the 24 bits of the phase's key (R88, R89) -/

theorem test_decode_captureFirst :
    decodeTableWord 32 0b0000_0000_0000_0000_0000_0000_0000 = some .captureFirst := by decide
theorem test_decode_capture :
    decodeTableWord 32 0b0001_0000_0000_0000_0000_0000_0000 = some .capture := by decide
theorem test_decode_guard :
    decodeTableWord 32 0b0010_0000_0000_0000_0000_0000_0000 = some .guard := by decide
theorem test_decode_genG4 :
    decodeTableWord 32 0b0011_0000_0000_0000_0000_0000_0000 = some .genG4 := by decide
theorem test_decode_genG5 :
    decodeTableWord 32 0b0011_0000_0000_0000_0000_0000_0001 = some .genG5 := by decide
theorem test_decode_demapHdr :
    decodeTableWord 32 0b0100_0000_0000_0000_0000_0000_0000 = some .demapHdr := by decide
theorem test_decode_hdrParse :
    decodeTableWord 32 0b0101_0000_0000_0000_0000_0000_0000 = some .hdrParse := by decide
theorem test_decode_lchk :
    decodeTableWord 32 0b0110_0000_0000_0000_0000_0000_0000 = some .lchk := by decide
theorem test_decode_demapPay :
    decodeTableWord 32 0b0111_0000_0000_0000_0000_0000_0000 = some .demapPay := by decide
theorem test_decode_crcInit :
    decodeTableWord 32 0b1000_0000_0000_0000_0000_0000_0000 = some .crcInit := by decide
theorem test_decode_crcByte :
    decodeTableWord 32 0b1001_0000_0000_0000_0000_0000_0000 = some .crcByte := by decide
theorem test_decode_crcCmp :
    decodeTableWord 32 0b1010_0000_0000_0000_0000_0000_0000 = some .crcCmp := by decide
theorem test_decode_extractL55 :
    decodeTableWord 32 0b1011_0101_0101_0000_0000_0010_0011 = some .extractL55 := by decide
theorem test_decode_extractLd5 :
    decodeTableWord 32 0b1011_1101_0101_0000_0000_0000_1111 = some .extractLd5 := by decide
theorem test_decode_extractLd5_any_length :
    decodeTableWord 32 0b1011_1101_0101_1111_1111_1111_1111 = some .extractLd5 := by decide
/-- Type 0x55 with a length of 0x0022 or 0x0024, and type 0x99 (L2.6). -/
theorem test_decode_extractReject :
    decodeTableWord 32 0b1011_0101_0101_0000_0000_0010_0010 = some .extractReject ∧
    decodeTableWord 32 0b1011_0101_0101_0000_0000_0010_0100 = some .extractReject ∧
    decodeTableWord 32 0b1011_1001_1001_0000_0000_0010_0011 = some .extractReject := by decide
theorem test_decode_filter :
    decodeTableWord 32 0b1100_0000_0000_0000_0000_0000_0000 = some .filter := by decide
theorem test_decode_emitByte :
    decodeTableWord 32 0b1101_0000_0000_0000_0000_0000_0000 = some .emitByte := by decide
/-- The reserved phases select nothing (R90), and a word of 29 bits is no key (log 17). -/
theorem test_decode_refuses :
    decodeWord 0xE000000 = .error (.reservedPhase 0xE) ∧
    decodeWord 0xF000000 = .error (.reservedPhase 0xF) ∧
    decodeWord 0x10000000 = .error .notAKey := ⟨rfl, rfl, rfl⟩
/-- The pin `rst` comes before every key (R190); DROP is never selected (R172). -/
theorem test_decode_reset_and_drop :
    decode ⟨true, 0xD000000⟩ = .ok .reset ∧ encode (.drop .len) = none := ⟨rfl, rfl⟩

/-! ## Helpers -/

/-- A view of the next state, if there is one. -/
def after {α : Type} (o : Host.Outcome State Fault Refusal) (view : State → α) : Option α :=
  match o with
  | .next t => some (view t)
  | .fault _ => none
  | .refused _ => none

theorem next_of_after {α : Type} {o : Host.Outcome State Fault Refusal} {view : State → α}
    (h : (after o view).isSome = true) : ∃ t, o = .next t := by
  cases o with
  | next t => exact ⟨t, rfl⟩
  | fault f => cases h
  | refused r => cases h

/-- Buffer contents from index `start` on. -/
def cells {w : Nat} (start : Nat) (l : List (BitVec w)) : Memory w :=
  l.zipIdx.map (fun p => (start + p.2, p.1))

/-- The state after reset, in another phase. -/
def inPhase (p : Phase) : State :=
  { State.reset with phase := p }

/-- The state after reset in another phase, with a sample on the input port and a ready consumer. -/
def offered (p : Phase) (sample : Byte) (last : Bool) : State :=
  { State.reset with phase := p, pins := { pinsLow with
      sValid := true, sSample := sample, sLast := last, sMeta := 0x2A, mReady := true } }

/-- The message of L2.6 with type 0xD5 and length 9. -/
def ldBytes : List Byte :=
  [0x00, 0xD5, 0x00, 0x09, 0x01, 0x0A, 0x0B, 0x0C, 0x0D, 0x11, 0x22, 0x1A, 0x53]

def ldMsg : Msg := { gen := 0, token := 7, cut := none, raw0 := none, bytes := ldBytes }

def ldCfg : FilterConfig := { cfgZero with crcEn := 1, crcInit := 0xFFFF }

/-- The block in the middle of that message, with every register at the value it has by EMIT. -/
def busy (p : Phase) (k : Nat) : State :=
  { State.resetWith ldCfg with
      phase := p, token := 7, n := 132, gen := 0, stride := 10, k := k, ptype := 0xD5, plen := 9,
      crc := 0x1A53, crcMatch := 1, layout := 2, meterId := 0x11221A53, meterId2 := 0x0A0B0C0D,
      upTime := 0, accept := 1, raw := cells 0 (ldMsg.expand.map bitOf), dec := cells 0 ldBytes,
      pins := quietPins ldCfg }

/-- The block with the first sample of a message captured, and in GUARD. -/
def oneSample : State :=
  { State.reset with phase := 0x2, n := 1, raw := [(0, 0)] }

/-! ## One step per operation -/

/-- 0x80 counts as a 1 (R12, L2.2); the beat is not the last. -/
theorem test_captureFirst :
    after (exec .captureFirst (offered 0x0 0x80 false))
      (fun t => (t.n, t.token, t.phase, Memory.read? t.raw 0)) =
      some (1, 0x2A, 0x1, some 1) := rfl

theorem test_captureFirst_last_sample :
    after (exec .captureFirst { offered 0x0 0x00 true with dropCause := .len })
      (fun t => (t.phase, t.dropCause, Memory.read? t.raw 0)) =
      some (0x2, DropCause.none, some 0) := by decide

theorem test_capture :
    after (exec .capture { offered 0x1 0x01 true with n := 3 })
      (fun t => (t.n, t.phase, Memory.read? t.raw 3)) = some (4, 0x2, some 1) := by decide

/-- At `RAW_CAP` = 720928 a sample is discarded and `N` stays (R53). -/
theorem test_capture_saturates :
    after (exec .capture { offered 0x1 0x01 false with n := 720928 })
      (fun t => (t.n, t.phase, t.raw)) = some (720928, 0x1, []) := by decide +kernel

/-- L2.1: 8 samples drop, 9 pass. -/
theorem test_guard :
    after (exec .guard { inPhase 0x2 with n := 8 }) (fun t => (t.phase, t.dropCause)) =
      some (0x0, DropCause.short) ∧
    after (exec .guard { inPhase 0x2 with n := 9 }) (fun t => (t.phase, t.dropCause)) =
      some (0x3, DropCause.none) := by decide

/-- L2.2. -/
theorem test_genG4 :
    after (step { inPhase 0x3 with raw := [(0, 0)], k := 5 })
      (fun t => (t.gen, t.stride, t.k, t.phase)) = some (0, 10, 0, 0x4) := by decide

/-- L2.2. -/
theorem test_genG5 :
    after (step { inPhase 0x3 with raw := [(0, 1)], k := 5 })
      (fun t => (t.gen, t.stride, t.k, t.phase)) = some (1, 11, 0, 0x4) := by decide

/-- L2.3: data samples 1 0 1 0 1 0 1 0 from index 2 are 0x55, and 1 0 0 0 0 0 0 0 are 0x01. -/
theorem test_demapHdr :
    after (exec .demapHdr { inPhase 0x4 with
        n := 392, stride := 10, raw := cells 2 [1, 0, 1, 0, 1, 0, 1, 0] })
      (fun t => (t.dec, t.k, t.phase)) = some ([(0, 0x55)], 1, 0x4) ∧
    after (exec .demapHdr { inPhase 0x4 with
        n := 392, stride := 10, raw := cells 2 [1, 0, 0, 0, 0, 0, 0, 0] })
      (fun t => (t.dec, t.k, t.phase)) = some ([(0, 0x01)], 1, 0x4) := by decide

/-- L2.3: at stride 11, K = 3 needs 43 samples; with 42 nothing is written and `K` stays 3. -/
theorem test_demapHdr_range :
    after (exec .demapHdr { inPhase 0x4 with
        n := 43, stride := 11, k := 3, raw := cells 35 [0, 0, 0, 0, 0, 0, 0, 1] })
      (fun t => (t.dec, t.k, t.phase)) = some ([(3, 0x80)], 4, 0x5) ∧
    after (exec .demapHdr { inPhase 0x4 with
        n := 42, stride := 11, k := 3, raw := cells 35 [0, 0, 0, 0, 0, 0, 0, 1] })
      (fun t => (t.dec, t.k, t.phase, t.dropCause)) =
      some ([], 3, 0x0, DropCause.rawOor) := by decide

/-- L2.3: the last byte of an L55 message, K = 38 at stride 10. -/
theorem test_demapPay :
    after (exec .demapPay { inPhase 0x7 with
        n := 390, stride := 10, k := 38, plen := 35, raw := cells 382 [1, 1, 1, 1, 1, 1, 1, 1] })
      (fun t => (t.dec, t.k, t.phase)) = some ([(38, 0xFF)], 39, 0x8) ∧
    after (exec .demapPay { inPhase 0x7 with n := 389, stride := 10, k := 38, plen := 35 })
      (fun t => (t.dec, t.k, t.phase, t.dropCause)) =
      some ([], 38, 0x0, DropCause.rawOor) := by decide

/-- L2.4, first row. -/
theorem test_hdrParse :
    after (exec .hdrParse { inPhase 0x5 with dec := cells 0 [0xFF, 0x55, 0x00, 0x23] })
      (fun t => (t.ptype, t.plen, t.phase)) = some (0x55, 35, 0x6) := by decide

/-- L2.4: equal counts drop, and an empty payload skips PAY. -/
theorem test_lchk :
    after (exec .lchk { inPhase 0x6 with n := 200, plen := 200 })
      (fun t => (t.phase, t.dropCause)) = some (0x0, DropCause.len) ∧
    after (exec .lchk { inPhase 0x6 with n := 200, plen := 199 })
      (fun t => (t.phase, t.dropCause)) = some (0x7, DropCause.none) ∧
    after (exec .lchk { inPhase 0x6 with n := 42, plen := 0 })
      (fun t => (t.phase, t.dropCause)) = some (0x8, DropCause.none) := by decide

/-- L2.5, the corner cases of CRC_INIT. -/
theorem test_crcInit :
    after (exec .crcInit { inPhase 0x8 with plen := 1 }) (fun t => (t.phase, t.dropCause)) =
      some (0x0, DropCause.crcRange) ∧
    after (exec .crcInit { inPhase 0x8 with plen := 2, cfg := ldCfg })
      (fun t => (t.crc, t.k, t.phase)) = some (0xFFFF, 4, 0xA) := by decide

/-- L2.5: byte 0x01 from 0x0000 gives 0x1021; byte 0x00 from 0xFFFF gives 0xE1F0. -/
theorem test_crcByte :
    after (exec .crcByte { inPhase 0x9 with plen := 9, k := 4, dec := [(4, 0x01)] })
      (fun t => (t.crc, t.k, t.phase)) = some (0x1021, 5, 0x9) ∧
    after (exec .crcByte { inPhase 0x9 with plen := 9, k := 10, crc := 0xFFFF, dec := [(10, 0)] })
      (fun t => (t.crc, t.k, t.phase)) = some (0xE1F0, 11, 0xA) := by decide

/-- L2.5: the check values over "123456789". -/
theorem test_crc16_check_values :
    crc16 0xFFFF [0x31, 0x32, 0x33, 0x34, 0x35, 0x36, 0x37, 0x38, 0x39] = 0x29B1 ∧
    crc16 0x1D0F [0x31, 0x32, 0x33, 0x34, 0x35, 0x36, 0x37, 0x38, 0x39] = 0xE5CC := by
  decide +kernel

/-- L2.5: an empty range, the stored CRC in `DEC[4..5]`; and a mismatch, which is no drop (R123). -/
theorem test_crcCmp :
    after (exec .crcCmp { inPhase 0xA with plen := 2, crc := 0xFF01, dec := [(4, 0xFF), (5, 0x01)] })
      (fun t => (t.crcMatch, t.phase)) = some (1, 0xB) ∧
    after (exec .crcCmp { inPhase 0xA with plen := 2, crc := 0x01FF, dec := [(4, 0xFF), (5, 0x01)] })
      (fun t => (t.crcMatch, t.phase)) = some (0, 0xB) := by decide

/-- L2.6, first row. -/
theorem test_extractL55 :
    after (exec .extractL55 { inPhase 0xB with
        ptype := 0x55, plen := 0x23, meterId2 := 9,
        dec := cells 18 [0x00, 0x01, 0xE2, 0x40, 0xA1, 0xA2, 0x12, 0x34, 0x56, 0x78] })
      (fun t => (t.upTime, t.meterId, t.meterId2, t.layout, t.phase)) =
      some (0x0001E240, 0x12345678, 0, 1, 0xC) := by decide

/-- L2.6: type 0xD5 with lengths 9 and 8. -/
theorem test_extractLd5 :
    after (exec .extractLd5 (busy 0xB 13))
      (fun t => (t.meterId2, t.meterId, t.upTime, t.layout, t.phase)) =
      some (0x0A0B0C0D, 0x11221A53, 0, 2, 0xC) ∧
    after (exec .extractLd5 { inPhase 0xB with ptype := 0xD5, plen := 8, upTime := 3 })
      (fun t => (t.upTime, t.phase, t.dropCause)) = some (3, 0x0, DropCause.decOor) := by
  decide +kernel

/-- L2.6: type 0x55 with length 0x0022. -/
theorem test_extractReject :
    after (step { inPhase 0xB with ptype := 0x55, plen := 0x22 })
      (fun t => (t.layout, t.phase, t.dropCause)) = some (0, 0x0, DropCause.layout) := by decide

/-- The registers FILTER sees, with a configuration. -/
def filterState (crcMatch en : Bit) (meter : Word) (ptype : Byte) (plen : Half) (ld5 : Bool) :
    State :=
  let cfg : FilterConfig := { crcEn := en, crcInit := 0, meterId := meter, ptype := ptype, plen := plen }
  if ld5 then
    { inPhase 0xC with crcMatch := crcMatch, cfg := cfg, ptype := 0xD5, plen := 15,
                       meterId := 0x11223344, meterId2 := 0x0A0B0C0D }
  else
    { inPhase 0xC with crcMatch := crcMatch, cfg := cfg, ptype := 0x55, plen := 0x23,
                       meterId := 0x12345678, meterId2 := 0 }

/-- L2.8, the accepting rows F2, F4, F6, F10 and F13. -/
theorem test_filter_accepts :
    [filterState 1 1 0x12345678 0 0 false, filterState 1 1 0 0x55 0x23 false,
      filterState 0 0 0 0 0 false, filterState 1 1 0x0A0B0C0D 0xD5 0 true,
      filterState 1 1 0 0 15 true].map
      (fun s => after (exec .filter s) (fun t => (t.accept, t.k, t.phase))) =
    List.replicate 5 (some (1, 0, 0xD)) := by decide

/-- L2.8, the dropping rows F3, F5, F7, F8 and F12. -/
theorem test_filter_drops :
    [filterState 1 1 0x12345679 0 0 false, filterState 1 1 0 0xD5 0 false,
      filterState 0 1 0 0 0 false, filterState 1 1 0 0 0x24 false,
      filterState 1 1 0x0A0B0C0E 0 0 true].map
      (fun s => after (exec .filter s) (fun t => (t.accept, t.phase, t.dropCause))) =
    List.replicate 5 (some (0, 0x0, DropCause.filter)) := by decide

/-- L2.9, the shape of program 2's last beat: byte 18 of 19, with `m_last`; `K` stays (R160). -/
theorem test_emitByte_last :
    after (exec .emitByte { offered 0xD 0 false with plen := 15, k := 18, dec := [(18, 0x12)] })
      (fun t => (t.phase, t.k, t.outbox.map (fun b => (b.byte, b.last, b.count)))) =
      some (0x0, 18, [(0x12, 1, 19)]) := by decide

/-- L2.9: beat 0 of program 1, taken and held. -/
theorem test_emitByte_first :
    after (exec .emitByte { offered 0xD 0 false with plen := 35, dec := [(0, 0xFF)] })
      (fun t => (t.phase, t.k, t.outbox.map (fun b => (b.byte, b.last, b.count)))) =
      some (0xD, 1, [(0xFF, 0, 39)]) ∧
    after (exec .emitByte { inPhase 0xD with plen := 35, dec := [(0, 0xFF)] })
      (fun t => (t.phase, t.k, t.outbox.length)) = some (0xD, 0, 0) := by decide

/-- R190: whatever the phase. -/
theorem test_reset :
    after (step { inPhase 0xD with
        n := 9, dropCause := .len, pins := { pinsLow with rst := true, cfg := ldCfg } })
      (fun t => (t.phase, t.dropCause, t.cfg, t.n, t.outbox.length)) =
      some (0x0, DropCause.none, ldCfg, 9, 0) := by decide

/-- R172. -/
theorem test_drop :
    after (exec (.drop .crcRange) { inPhase 0x8 with plen := 1 })
      (fun t => (t.phase, dropCode t.dropCause, t.plen)) = some (0x0, 4, 1) := by decide

/-- R90. -/
theorem test_reserved_phase_faults :
    step (inPhase 0xE) = .fault (.reservedPhase 0xE) ∧
      step (inPhase 0xF) = .fault (.reservedPhase 0xF) := ⟨rfl, rfl⟩

/-- What the host asks of `withFetchWord`: a placed key's operation runs next. -/
theorem test_withFetchWord :
    after (step (State.reset.withFetchWord 32 0x3000001)) (fun t => t.gen) = some 1 ∧
    after (step (State.reset.withFetchWord 32 0xB550023)) (fun t => t.layout) = some 1 ∧
    after (step (State.reset.withFetchWord 32 0x0000000)) (fun t => t.n) = some 1 := by decide

/-! ## Whole messages -/

/-- The message of L2.6 with its matching CRC is accepted. As in programs 6c and 6d its trailing framing
is not needed: of its 132 samples the last byte's last data bit is at index 129. -/
theorem test_expand_length :
    ldMsg.expand.length = 132 ∧
    (decodeMessage 7 ldMsg.expand ldCfg).isSome = true ∧
    (decodeMessage 7 (ldMsg.expand.take 130) ldCfg).isSome = true ∧
    (decodeMessage 7 (ldMsg.expand.take 129) ldCfg).isSome = false := by decide +kernel

/-- The first two symbols of program 2: 0x00 and 0xD5 at stride 11. -/
theorem test_symbolSamples :
    symbolSamples 11 0x00 = [0, 0, 0, 0, 0, 0, 0, 0, 1, 1, 0] ∧
    symbolSamples 11 0xD5 = [1, 0, 1, 0, 1, 0, 1, 1, 1, 1, 0] := by decide

/-! ## Witnesses: for each obligation with hypotheses, states and operands that meet them -/

/-- The memory of the busy state is canonical, whatever its phase and index. -/
theorem busy_memoryOk (p : Phase) (k : Nat) : MemoryOk (busy p k) :=
  ⟨by show Memory.wf rawCap (busy 0 0).raw; decide +kernel,
    by show Memory.wf decCap (busy 0 0).dec; decide +kernel⟩

/-- A busy state with its message captured and decoded meets the invariant. -/
theorem inv_busy_guard : Inv (busy 0x2 0) := by
  refine ⟨busy_memoryOk _ _, ⟨?_, ?_, ?_, ?_, ?_, ?_, ?_, ?_, ?_, ?_, ?_, ?_, ?_, ?_, ?_, ?_, ?_, ?_, ?_⟩⟩
  case refine_18 => intro h; exact absurd h (by decide)
  all_goals (try unfold State.decodedUpTo)
  all_goals decide +kernel

theorem inv_busy_filter : Inv (busy 0xC 0) := by
  refine ⟨busy_memoryOk _ _, ⟨?_, ?_, ?_, ?_, ?_, ?_, ?_, ?_, ?_, ?_, ?_, ?_, ?_, ?_, ?_, ?_, ?_, ?_, ?_⟩⟩
  case refine_18 =>
    intro _
    exact .inr ⟨rfl, rfl, by decide, rfl, by decide +kernel, by decide +kernel⟩
  all_goals (try unfold State.decodedUpTo)
  all_goals decide +kernel

/-- The first beat. -/
theorem inv_busy_emit_first : Inv (busy 0xD 0) := by
  refine ⟨busy_memoryOk _ _, ⟨?_, ?_, ?_, ?_, ?_, ?_, ?_, ?_, ?_, ?_, ?_, ?_, ?_, ?_, ?_, ?_, ?_, ?_, ?_⟩⟩
  case refine_18 =>
    intro _
    exact .inr ⟨rfl, rfl, by decide, rfl, by decide +kernel, by decide +kernel⟩
  all_goals (try unfold State.decodedUpTo)
  all_goals decide +kernel

/-- The last beat, byte 12 of 13. -/
theorem inv_busy_emit_last : Inv (busy 0xD 12) := by
  refine ⟨busy_memoryOk _ _, ⟨?_, ?_, ?_, ?_, ?_, ?_, ?_, ?_, ?_, ?_, ?_, ?_, ?_, ?_, ?_, ?_, ?_, ?_, ?_⟩⟩
  case refine_18 =>
    intro _
    exact .inr ⟨rfl, rfl, by decide, rfl, by decide +kernel, by decide +kernel⟩
  all_goals (try unfold State.decodedUpTo)
  all_goals decide +kernel

/-- Before GEN almost every clause is empty. -/
theorem inv_oneSample : Inv oneSample := by
  refine ⟨⟨by decide +kernel, by decide +kernel⟩,
    ⟨?_, ?_, ?_, ?_, ?_, ?_, ?_, ?_, ?_, ?_, ?_, ?_, ?_, ?_, ?_, ?_, ?_, ?_, ?_⟩⟩
  case refine_18 => intro h; exact absurd h (by decide)
  all_goals (try unfold State.decodedUpTo)
  all_goals decide +kernel

/-- In EXTRACT, where the fields are still to be read. -/
theorem inv_busy_extract : Inv (busy 0xB 11) := by
  refine ⟨busy_memoryOk _ _, ⟨?_, ?_, ?_, ?_, ?_, ?_, ?_, ?_, ?_, ?_, ?_, ?_, ?_, ?_, ?_, ?_, ?_, ?_, ?_⟩⟩
  case refine_18 => intro h; exact absurd h (by decide)
  all_goals (try unfold State.decodedUpTo)
  all_goals decide +kernel

/-- Before the last byte of the CRC range. -/
def midCrc : State :=
  { busy 0x9 10 with crc := 0x122C }

theorem inv_midCrc : Inv midCrc := by
  refine ⟨⟨(busy_memoryOk 0x9 10).raw, (busy_memoryOk 0x9 10).dec⟩,
    ⟨?_, ?_, ?_, ?_, ?_, ?_, ?_, ?_, ?_, ?_, ?_, ?_, ?_, ?_, ?_, ?_, ?_, ?_, ?_⟩⟩
  case refine_18 => intro h; exact absurd h (by decide)
  all_goals (try unfold State.decodedUpTo)
  all_goals decide +kernel

/-! Selecting and running -/

theorem witness_DecodeOfEncodedOperation :
    (Instr.wellFormed .extractLd5 = true ∧ encode .extractLd5 = some ⟨false, 0xBD50000⟩ ∧
      (0xBD5FFFF : Key).extractLsb' 24 4 = (0xBD50000 : Key).extractLsb' 24 4 ∧
      (0xBD5FFFF : Key).extractLsb' 16 8 = (0xBD50000 : Key).extractLsb' 16 8) ∧
    (encode .genG5 = some ⟨false, 0x3000001⟩ ∧
      (0x3FFFFFF : Key).extractLsb' 24 4 = (0x3000001 : Key).extractLsb' 24 4 ∧
      (0x3FFFFFF : Key).getLsbD 0 = (0x3000001 : Key).getLsbD 0) ∧
    (encode .extractReject = some ⟨false, 0xB000000⟩ ∧
      (0xB550022 : Key).extractLsb' 24 4 = (0xB000000 : Key).extractLsb' 24 4 ∧
      ¬ ((0xB550022 : Key).extractLsb' 16 8 = 0x55 ∧ (0xB550022 : Key).extractLsb' 0 16 = 0x0023) ∧
      (0xB550022 : Key).extractLsb' 16 8 ≠ 0xD5) ∧
    (Instr.wellFormed .reset = true ∧ encode .reset = some ⟨true, 0⟩) := by decide

theorem witness_DecodeKeyOfState :
    (inPhase 0x3).phase = 0x3 ∧ (inPhase 0xB).phase = 0xB ∧
      (inPhase 0xC).phase ≠ 0x3 ∧ (inPhase 0xC).phase ≠ 0xB := by decide

theorem witness_StepRunsSelectedOperation :
    decode (busy 0xD 12).selector = .ok .emitByte ∧ decode (inPhase 0x2).selector = .ok .guard :=
  ⟨rfl, rfl⟩

/-- One state for each of the three branches. -/
theorem witness_ExtractDispatchesOnTypeAndLength :
    (∀ s ∈ [{ inPhase 0xB with ptype := 0x55, plen := 0x23 },
        { inPhase 0xB with ptype := 0xD5, plen := 0x23 },
        { inPhase 0xB with ptype := 0x55, plen := 0x24 }],
      s.pins.rst = false ∧ s.phase = 0xB) := by decide

theorem witness_ReservedPhaseNeverEnteredAndFaults :
    (∃ t, step (busy 0xC 0) = .next t) ∧
    (inPhase 0xE).pins.rst = false ∧ (inPhase 0xE).phase = 0xE ∧ (inPhase 0xF).phase = 0xF :=
  ⟨⟨_, rfl⟩, rfl, rfl, rfl⟩

/-! The operations -/

theorem witness_ResetLoadsConfiguration :
    ({ busy 0xD 3 with pins := { pinsLow with rst := true, cfg := ldCfg } } : State).pins.rst =
      true := rfl

theorem witness_CaptureFirstTakesFirstSample :
    ((offered 0x0 5 true).pins.rst = false ∧ (offered 0x0 5 true).phase = 0x0 ∧
      (offered 0x0 5 true).pins.sValid = true) ∧
    ((inPhase 0x0).pins.rst = false ∧ (inPhase 0x0).phase = 0x0 ∧
      (inPhase 0x0).pins.sValid = false) := by decide

/-- At `N` one below `RAW_CAP` and at it; and for the second clause `N = 1` in GUARD. -/
theorem witness_CaptureAppendsSample :
    (∀ s ∈ [{ offered 0x1 5 false with n := 720927 }, { offered 0x1 5 false with n := 720928 }],
      s.pins.rst = false ∧ s.phase = 0x1 ∧ s.pins.sValid = true) ∧
    720927 < rawCap ∧ rawCap ≤ 720928 ∧ (inPhase 0x1).pins.sValid = false ∧
    (Inv oneSample ∧ oneSample.phase = 0x2 ∧ oneSample.n = 1) :=
  ⟨by decide, by decide +kernel, by decide +kernel, rfl, inv_oneSample, rfl, rfl⟩

theorem witness_GuardDropsShortMessages :
    (List.replicate 8 (1 : Byte)).length < 9 ∧
    ({ inPhase 0x2 with n := 8 } : State).n < 9 ∧ 9 ≤ ({ inPhase 0x2 with n := 9 } : State).n ∧
      ({ inPhase 0x4 with n := 9 } : State).n = 9 := by decide

theorem witness_GenerationSetsStride :
    (inPhase 0x3).pins.rst = false ∧ (inPhase 0x3).phase = 0x3 := ⟨rfl, rfl⟩

/-- Both operations, both outcomes, at the last header byte and at the last cell of `DEC`. -/
theorem witness_DemapByteAssemblesOneByte :
    (Instr.demapHdr = .demapHdr ∧ (0x5 : Phase) = (if 3 + 1 = 4 then 0x5 else 0x4)) ∧
    (Instr.demapPay = .demapPay ∧
      (0x8 : Phase) = (if 65538 + 1 = 4 + (0xFFFF : Half).toNat then 0x8 else 0x7)) ∧
    (∀ s ∈ [{ inPhase 0x4 with n := 40, stride := 10, k := 3 },
        { inPhase 0x7 with n := 720928, stride := 11, k := 65538, plen := 0xFFFF }],
      pDataBase + s.k * s.stride.toNat + 7 < s.n ∧ s.n ≤ rawCap ∧ s.k < decCap) ∧
    (∀ s ∈ [{ inPhase 0x4 with n := 39, stride := 10, k := 3 },
        { inPhase 0x7 with n := 720927, stride := 11, k := 65538, plen := 0xFFFF }],
      s.n ≤ pDataBase + s.k * s.stride.toNat + 7) := by decide +kernel

theorem witness_ResetStateValues :
    (∃ t, exec .reset (busy 0xD 3) = .next t ∧ t.pins.rst = false) ∧
    (State.resetWith ldCfg).pins.rst = false := ⟨⟨_, rfl, rfl⟩, rfl⟩

theorem witness_LengthCheckIsCoarse :
    ({ inPhase 0x6 with n := 200, plen := 200 } : State).n ≤ (200 : Half).toNat ∧
    ((0 : Half).toNat < ({ inPhase 0x6 with n := 42 } : State).n ∧ (inPhase 0x6).plen = 0) ∧
    (({ inPhase 0x6 with n := 201, plen := 200 } : State).plen.toNat < 201 ∧
      ({ inPhase 0x6 with n := 201, plen := 200 } : State).plen ≠ 0) := by decide

theorem witness_CrcInitSeedsCrc :
    (1 : Half).toNat < 2 ∧ (2 : Half).toNat = 2 ∧ 2 < (3 : Half).toNat := by decide

theorem witness_CrcByteFoldsOneByte :
    (Inv midCrc ∧ midCrc.phase = 0x9 ∧ midCrc.k = midCrc.plen.toNat + 1) ∧
    ({ inPhase 0x9 with plen := 9, k := 10 } : State).k < decCap ∧
      ({ inPhase 0x9 with plen := 0xFFFF, k := 65536 } : State).k < decCap :=
  ⟨⟨inv_midCrc, rfl, by decide⟩, by decide +kernel, by decide +kernel⟩

theorem witness_ExtractL55ReadsFields :
    24 ≤ ({ inPhase 0xB with plen := 24 } : State).plen.toNat ∧
      24 ≤ ({ inPhase 0xB with plen := 0x23 } : State).plen.toNat := by decide

theorem witness_ExtractLd5ReadsFields :
    9 ≤ (busy 0xB 11).plen.toNat ∧ ({ inPhase 0xB with plen := 8 } : State).plen.toNat < 9 := by
  decide

theorem witness_FilterDecidesByFourPredicates :
    (filterState 1 1 0 0 0 false).accepted = true ∧
      (filterState 0 1 0 0 0 false).accepted = false := by decide

theorem witness_EmitByteSendsOneByte :
    (Inv (busy 0xD 12) ∧ (busy 0xD 12).phase = 0xD) ∧
    (∀ s ∈ [busy 0xD 12, busy 0xD 11],
      s.pins.rst = false ∧ s.phase = 0xD ∧ s.pins.mReady = true ∧ s.k < decCap) ∧
    (busy 0xD 12).k = 4 + (busy 0xD 12).plen.toNat - 1 ∧
    (busy 0xD 11).k ≠ 4 + (busy 0xD 11).plen.toNat - 1 ∧
    (inPhase 0xD).pins.mReady = false :=
  ⟨⟨inv_busy_emit_last, rfl⟩, by decide +kernel, by decide +kernel, by decide +kernel, rfl⟩

theorem witness_ExtractRejectDrops :
    (inPhase 0xB).pins.rst = false ∧ (inPhase 0xB).phase = 0xB ∧ (inPhase 0xB).ptype ≠ 0xD5 ∧
      ¬ ((inPhase 0xB).ptype = 0x55 ∧ (inPhase 0xB).plen = 0x0023) := by decide

/-- With no reset, and with one. -/
theorem witness_PhaseTransitionsFollowTable :
    (∃ t, (busy 0xC 0).pins.rst = false ∧ step (busy 0xC 0) = .next t ∧ t.phase = 0xD) ∧
    (∃ t, ({ inPhase 0x7 with pins := { pinsLow with rst := true } } : State).pins.rst = true ∧
      step { inPhase 0x7 with pins := { pinsLow with rst := true } } = .next t) ∧
    (∃ t, step { inPhase 0x8 with plen := 2 } = .next t ∧ 2 ≤ (2 : Half).toNat) :=
  ⟨⟨_, rfl, rfl, rfl⟩, ⟨_, rfl, rfl⟩, _, rfl, by decide⟩

/-! The ports and the writers -/

theorem witness_ReadyAndValidFollowPhase :
    (inPhase 0x1).sReady = true ∧ (inPhase 0xD).mValid = true ∧ (inPhase 0x0).mValid = false := by
  decide

theorem witness_OutputsStableWhileHeld :
    ∃ t, (inPhase 0xD).mValid = true ∧ (inPhase 0xD).outputBeat = false ∧
      step (inPhase 0xD) = .next t ∧ t.pins.rst = false :=
  ⟨_, rfl, rfl, rfl, rfl⟩

theorem witness_NoSampleTakenWhileBusy :
    ∃ t, (offered 0x2 5 false).phase ≠ 0x0 ∧ (offered 0x2 5 false).phase ≠ 0x1 ∧
      step (offered 0x2 5 false) = .next t :=
  ⟨_, by decide, by decide, rfl⟩

theorem witness_OnlyResetReadsAndWritesConfiguration :
    Instr.filter ≠ .reset ∧ ∃ t, exec .filter (filterState 1 1 0 0 0 false) = .next t :=
  ⟨by decide, _, rfl⟩

theorem witness_RegistersHaveTheirWriters :
    ∃ t, exec .captureFirst (offered 0x0 5 false) = .next t := ⟨_, rfl⟩

theorem witness_CellsHaveTheirWriters :
    (∃ t, exec .capture { offered 0x1 5 false with n := 3 } = .next t) ∧
      ∃ t, exec .demapPay { inPhase 0x7 with n := 400, stride := 10, k := 4, plen := 9 } = .next t :=
  ⟨⟨_, rfl⟩, next_of_after (view := fun t => t.k) (by decide +kernel)⟩

theorem witness_DropCausesHaveTheirRaisers :
    (∃ t, exec .extractL55 { inPhase 0xB with ptype := 0x55, plen := 24 } = .next t) ∧
      24 ≤ (24 : Half).toNat ∧ ∃ t, exec .guard (inPhase 0x2) = .next t :=
  ⟨next_of_after (view := fun t => t.phase) (by decide), by decide, _, rfl⟩

/-- A token of six bits, whatever `P_META_W` is; and a state that drives `m_meta`. -/
theorem witness_MetadataWidthIsKept :
    ∃ t, step (offered 0x0 5 false) = .next t ∧ (offered 0x0 5 false).token.toNat < 2 ^ 6 ∧
      (offered 0x0 5 false).pins.sMeta.toNat < 2 ^ 6 ∧
      (∀ p ∈ (offered 0x0 5 false).schedule, p.sMeta.toNat < 2 ^ 6) ∧
      (busy 0xD 0).mValid = true :=
  ⟨_, rfl, by decide, (Nat.mod_le 0x2A _).trans_lt (by decide), by decide, rfl⟩

/-! The invariant -/

theorem witness_StepKeepsBuffersCanonical :
    MemoryOk (busy 0x7 12) ∧ ∃ t, step (busy 0x7 12) = .next t :=
  ⟨busy_memoryOk _ _, next_of_after (view := fun t => t.k) (by decide +kernel)⟩

theorem witness_StepKeepsInvariant :
    (Inv (busy 0xC 0) ∧ ∃ t, step (busy 0xC 0) = .next t) ∧
    (Inv (busy 0xD 12) ∧ ∃ t, step (busy 0xD 12) = .next t) :=
  ⟨⟨inv_busy_filter, _, rfl⟩, inv_busy_emit_last,
    next_of_after (view := fun t => t.k) (by decide +kernel)⟩

theorem witness_InvariantStatesNeverFault : Inv (busy 0xD 0) ∧ Inv (busy 0xB 11) :=
  ⟨inv_busy_emit_first, inv_busy_extract⟩

/-- The last DEC cell each reads; and two states that differ in cells not read: those of EMIT_BYTE at
its last byte without the raw samples, and of DEMAP_HDR with other samples outside its eight. -/
theorem witness_OnlyWrittenCellsAreRead :
    (Inv (busy 0xB 11) ∧ decode (busy 0xB 11).selector = .ok .extractLd5 ∧
      12 ∈ decReads .extractLd5 (busy 0xB 11)) ∧
    (Inv (busy 0xD 12) ∧ decode (busy 0xD 12).selector = .ok .emitByte ∧
      12 ∈ decReads .emitByte (busy 0xD 12)) ∧
    SameReads .emitByte (busy 0xD 12) { busy 0xD 12 with raw := [], dec := [(12, 0x53)] } ∧
    SameReads .demapHdr (busy 0x4 1)
      { busy 0x4 1 with raw := (11, 1) :: cells 12 [1, 0, 1, 0, 1, 0, 1, 1], dec := [] } :=
  ⟨⟨inv_busy_extract, rfl, by decide⟩, ⟨inv_busy_emit_last, rfl, by decide⟩,
    ⟨rfl, by decide, by decide +kernel⟩, ⟨rfl, by decide +kernel, by decide⟩⟩

theorem witness_CountersFitTheirWidths : Inv (busy 0xD 12) ∧ (busy 0xD 12).phase = 0xD :=
  ⟨inv_busy_emit_last, rfl⟩

theorem witness_FilterSeesTwoLayouts : Inv (busy 0xC 0) ∧ (busy 0xC 0).phase = 0xC :=
  ⟨inv_busy_filter, rfl⟩

theorem witness_NothingEmittedBeforeAcceptance :
    Inv (busy 0xD 12) ∧ ∃ t, step (busy 0xD 12) = .next t ∧ t.outbox.length = 1 :=
  ⟨inv_busy_emit_last, _, rfl, rfl⟩

/-! The CRC and whole messages -/

/-- The empty range and a range of one byte. -/
theorem witness_CrcStageComputesCrc16 :
    ∀ s ∈ [{ inPhase 0x8 with plen := 2 }, { inPhase 0x8 with plen := 3 }],
      s.phase = 0x8 ∧ 2 ≤ s.plen.toNat ∧ s.pins.rst = false ∧ ∀ p ∈ s.schedule, p.rst = false := by
  decide

theorem witness_CrcIsXorLinear : ([0x01] : List Byte).length = ([0x80] : List Byte).length := rfl

theorem witness_EmitOffersBeatOfDecodedPacket :
    (Inv (busy 0xD 0) ∧ (busy 0xD 0).phase = 0xD) ∧ (Inv (busy 0xD 12) ∧ (busy 0xD 12).phase = 0xD) :=
  ⟨⟨inv_busy_emit_first, rfl⟩, inv_busy_emit_last, rfl⟩

theorem witness_DropOnlyWhereDecodeGivesNone :
    ∃ t, Inv oneSample ∧ oneSample.pins.rst = false ∧ oneSample.phase ≠ 0x0 ∧
      oneSample.phase ≠ 0xD ∧ step oneSample = .next t ∧ t.phase = 0x0 :=
  ⟨_, inv_oneSample, rfl, by decide, by decide, rfl, rfl⟩

theorem witness_ProcessingEndsWithinWorkBound :
    (Inv (busy 0x2 0) ∧ (busy 0x2 0).phase = 0x2 ∧ (busy 0x2 0).noReset) ∧
    (Inv oneSample ∧ oneSample.phase = 0x2 ∧ oneSample.noReset) :=
  ⟨⟨inv_busy_guard, rfl, rfl, by simp [busy, State.resetWith]⟩, inv_oneSample, rfl, rfl,
    by simp [oneSample, State.reset, State.resetWith]⟩

theorem headD_cons_tail {α : Type} {l : List α} (d : α) (h : l ≠ []) : l.headD d :: l.tail = l := by
  cases l with
  | nil => exact absurd rfl h
  | cons a rest => rfl

/-- A block in IDLE to which the small message is presented. -/
def presented (samples : List Byte) : State :=
  { State.resetWith ldCfg with
      pins := (messagePins ldCfg 7 samples ++ [quietPins ldCfg]).headD pinsLow,
      schedule := (messagePins ldCfg 7 samples ++ [quietPins ldCfg]).tail }

theorem witness_WholeMessageRunComputesDecode :
    (presented ldMsg.expand).phase = 0x0 ∧ ldMsg.expand ≠ [] ∧
      (presented ldMsg.expand).pins :: (presented ldMsg.expand).schedule =
        messagePins ldCfg 7 ldMsg.expand ++ [quietPins ldCfg] :=
  ⟨rfl, by decide +kernel,
    headD_cons_tail (l := messagePins ldCfg 7 ldMsg.expand ++ [quietPins ldCfg]) pinsLow (by simp)⟩

/-- A block that has run and one that has not, with the same configuration and host. -/
theorem witness_StaleStateNeverMatters :
    ∃ t, (busy 0x0 12).phase = 0x0 ∧
      ({ State.resetWith ldCfg with pins := quietPins ldCfg } : State).phase = 0x0 ∧
      (busy 0x0 12).cfg = ldCfg ∧ (busy 0x0 12).pins = quietPins ldCfg ∧
      (busy 0x0 12).schedule = [] ∧ steps 1 (busy 0x0 12) = .next t :=
  ⟨_, rfl, rfl, rfl, rfl, rfl, rfl⟩

theorem witness_DecodableExactlyFromSampleCount :
    (messageBytes (List.replicate 40 1) 10 0 4).isSome = true ∧
      (messageBytes (List.replicate 39 1) 10 0 4).isSome = false ∧ 0 < 4 := by decide

theorem witness_AcceptanceClosedForm :
    (decodeMessage 7 ldMsg.expand ldCfg).isSome = true := test_expand_length.2.1

theorem witness_LengthCheckNeverChangesOutput :
    1 ≤ 200 ∧ (List.replicate 200 (1 : Byte)).length ≤ 200 :=
  ⟨by decide, List.length_replicate.le⟩

/-- L2.7, last row, and further: every non-zero sample replaced by 0xFF, the start bit and the framing
after byte 0 inverted, and other samples after the last decoded byte. -/
def otherSamples : List Byte :=
  (((ldMsg.expand.map fun b => if b = 0 then 0 else 0xFF).set 1 1).set 10 0).set 11 1 ++ [1, 1, 1]

theorem witness_OnlyMarkerAndDataBitsMatter :
    (ldMsg.expand ++ [0, 0, 0]).length = otherSamples.length ∧
    sampleBit (ldMsg.expand ++ [0, 0, 0]) 0 = sampleBit otherSamples 0 ∧
    (be16At ldBytes 2).toNat = 9 ∧
    (∀ k < 4 + 9, ∀ j < 8, sampleBit (ldMsg.expand ++ [0, 0, 0]) (pDataBase + k * 10 + j) =
      sampleBit otherSamples (pDataBase + k * 10 + j)) ∧
    sampleBit (ldMsg.expand ++ [0, 0, 0]) 134 ≠ sampleBit otherSamples 134 := by decide +kernel

theorem witness_FilterIsMonotone :
    ∃ p, ({ ldCfg with crcEn := 0 } : FilterConfig) = { ldCfg with crcEn := 0 } ∧
      decodeMessage 7 ldMsg.expand ldCfg = some p := by
  obtain ⟨p, hp⟩ := Option.isSome_iff_exists.1 test_expand_length.2.1
  exact ⟨p, rfl, hp⟩

/-- One configuration of each kind. -/
theorem witness_SomeConfigurationsAcceptNothing :
    (({ cfgZero with ptype := 0x99 } : FilterConfig).ptype ≠ 0 ∧
      ({ cfgZero with ptype := 0x99 } : FilterConfig).ptype ≠ 0x55 ∧
      ({ cfgZero with ptype := 0x99 } : FilterConfig).ptype ≠ 0xD5) ∧
    (({ cfgZero with ptype := 0x55, plen := 0x24 } : FilterConfig).plen ≠ 0 ∧
      ({ cfgZero with ptype := 0x55, plen := 0x24 } : FilterConfig).plen ≠ 0x0023) ∧
    (1 ≤ ({ cfgZero with plen := 8 } : FilterConfig).plen.toNat ∧
      ({ cfgZero with plen := 8 } : FilterConfig).plen.toNat ≤ 8) := by decide

theorem witness_ExpansionRoundTrip :
    ldMsg.cut = none ∧ (∀ b, ldMsg.raw0 = some b → bitOf b = ldMsg.gen) ∧
    (∀ b, ({ ldMsg with gen := 1, raw0 := some 0x80 } : Msg).raw0 = some b → bitOf b = 1) ∧
    ldMsg.bytes.length = 4 + (be16At ldMsg.bytes 2).toNat :=
  ⟨rfl, fun _ h => by simp [ldMsg] at h, fun b h => by cases h; decide, by decide⟩

end Sys2Proof.Tests
end

section
/-!
PROOF. The metadata token and the host's pins (spec/00_scope.md R7, spec/10_state.md R23): which
operation a selected row belongs to, what each operation leaves of the token and the pins, and from
these that a step never widens the token.
-/

namespace Sys2Proof

/-! ## The phase of the selected operation -/

/-- Every row fixes the four phase bits of the key (R89). -/
theorem opTable_mask_phase {r : OpRow} (hr : r ∈ opTable) : keyPhase r.mask = BitVec.allOnes 4 := by
  revert r
  decide

/-- A row selects only keys of the row's own phase. -/
theorem keyPhase_of_selects {r : OpRow} (hr : r ∈ opTable) {key : Key} (h : r.selects key = true) :
    keyPhase key = keyPhase r.value := by
  rw [key_eq_append key, OpRow.selects_parts, opTable_mask_phase hr, BitVec.and_allOnes] at h
  exact beq_iff_eq.1 (Bool.and_eq_true_iff.1 h).1

/-- A key that selects an operation selects it by a row of the table. -/
theorem decodeKey_ok_inv {key : Key} {i : Instr} (h : decodeKey key = .ok i) :
    ∃ r ∈ opTable, r.op = i ∧ r.selects key = true := by
  unfold decodeKey at h
  split at h
  · rename_i r hr
    cases h
    exact ⟨r, List.mem_of_find?_eq_some hr, rfl,
      List.find?_some (p := fun r : OpRow => r.selects key) hr⟩
  · cases h

/-- A selected operation is RESET, by the pin, or that of a row which selects the key. -/
theorem decode_ok_inv {sel : Selector} {i : Instr} (h : decode sel = .ok i) :
    sel.rst = true ∧ i = .reset ∨
      sel.rst = false ∧ ∃ r ∈ opTable, r.op = i ∧ r.selects sel.key = true := by
  unfold decode at h
  split_ifs at h with hrst
  · cases h
    exact .inl ⟨hrst, rfl⟩
  · exact .inr ⟨Bool.eq_false_iff.2 hrst, decodeKey_ok_inv h⟩

theorem opTable_captureFirst_phase {r : OpRow} (hr : r ∈ opTable) (ho : r.op = .captureFirst) :
    keyPhase r.value = Machine.phIdle := by
  revert r
  decide

namespace Machine

/-- CAPTURE_FIRST is selected in IDLE alone (R88). -/
theorem phase_of_decode_captureFirst {s : State} (h : decode s.selector = .ok .captureFirst) :
    s.phase = phIdle := by
  obtain ⟨-, hreset⟩ | ⟨-, r, hr, ho, hs⟩ := decode_ok_inv h
  · cases hreset
  · calc s.phase = keyPhase s.dkey := (keyPhase_dkey s).symm
      _ = keyPhase r.value := keyPhase_of_selects hr hs
      _ = phIdle := opTable_captureFirst_phase hr ho

/-! ## What an operation leaves of the token and the pins -/

/-- `t` has the token and the present and scheduled pins of `s`. -/
structure SameTokenAndPins (s t : State) : Prop where
  token    : t.token = s.token
  pins     : t.pins = s.pins
  schedule : t.schedule = s.schedule

/-- No operation but CAPTURE_FIRST touches the token or the pins. -/
theorem exec_sameTokenAndPins {i : Instr} {s t : State} (hi : i ≠ .captureFirst)
    (h : exec i s = .next t) : SameTokenAndPins s t := by
  cases i with
  | captureFirst => exact absurd rfl hi
  | capture =>
    obtain ⟨-, -, rfl⟩ | ⟨-, -, rfl⟩ | ⟨-, rfl⟩ := execCapture_next_inv h <;> exact ⟨rfl, rfl, rfl⟩
  | guard => obtain ⟨-, rfl⟩ | ⟨-, rfl⟩ := execGuard_next_inv h <;> exact ⟨rfl, rfl, rfl⟩
  | genG4 => cases h; exact ⟨rfl, rfl, rfl⟩
  | genG5 => cases h; exact ⟨rfl, rfl, rfl⟩
  | demapHdr =>
    obtain ⟨-, rfl⟩ | ⟨-, -, -, rfl⟩ := execDemapHdr_next_inv h <;> exact ⟨rfl, rfl, rfl⟩
  | hdrParse => cases h; exact ⟨rfl, rfl, rfl⟩
  | lchk => obtain ⟨-, rfl⟩ | ⟨-, rfl⟩ := execLchk_next_inv h <;> exact ⟨rfl, rfl, rfl⟩
  | demapPay =>
    obtain ⟨-, rfl⟩ | ⟨-, -, -, rfl⟩ := execDemapPay_next_inv h <;> exact ⟨rfl, rfl, rfl⟩
  | crcInit => obtain ⟨-, rfl⟩ | ⟨-, rfl⟩ := execCrcInit_next_inv h <;> exact ⟨rfl, rfl, rfl⟩
  | crcByte => obtain ⟨-, rfl⟩ := execCrcByte_next_inv h; exact ⟨rfl, rfl, rfl⟩
  | crcCmp => cases h; exact ⟨rfl, rfl, rfl⟩
  | extractL55 =>
    obtain ⟨-, rfl⟩ | ⟨-, -, rfl⟩ | ⟨-, rfl⟩ := execExtractL55_next_inv h <;>
      exact ⟨rfl, rfl, rfl⟩
  | extractLd5 =>
    obtain ⟨-, rfl⟩ | ⟨-, rfl⟩ := execExtractLd5_next_inv h <;> exact ⟨rfl, rfl, rfl⟩
  | extractReject => cases h; exact ⟨rfl, rfl, rfl⟩
  | filter => obtain ⟨-, rfl⟩ | ⟨-, rfl⟩ := execFilter_next_inv h <;> exact ⟨rfl, rfl, rfl⟩
  | emitByte =>
    obtain ⟨-, -, -, rfl⟩ | ⟨-, -, -, rfl⟩ | ⟨-, rfl⟩ := execEmitByte_next_inv h <;>
      exact ⟨rfl, rfl, rfl⟩
  | reset => cases h; exact ⟨rfl, rfl, rfl⟩
  | drop cause => cases h; exact ⟨rfl, rfl, rfl⟩

/-- CAPTURE_FIRST takes the token from `s_meta` on a beat, and holds without one (R153). -/
theorem execCaptureFirst_token {s t : State} (h : execCaptureFirst s = .next t) :
    s.inputBeat = true ∧ t.token = s.pins.sMeta ∨ t.token = s.token := by
  obtain ⟨hb, rfl⟩ | ⟨-, rfl⟩ := execCaptureFirst_next_inv h
  · exact .inl ⟨hb, rfl⟩
  · exact .inr rfl

/-- No operation touches the host's pins. -/
theorem exec_pins_schedule {i : Instr} {s t : State} (h : exec i s = .next t) :
    t.pins = s.pins ∧ t.schedule = s.schedule := by
  by_cases hi : i = .captureFirst
  · subst hi
    obtain ⟨-, rfl⟩ | ⟨-, rfl⟩ := execCaptureFirst_next_inv h <;> exact ⟨rfl, rfl⟩
  · have hsame := exec_sameTokenAndPins hi h
    exact ⟨hsame.pins, hsame.schedule⟩

/-! ## What a step leaves of them -/

/-- A step keeps the token, or takes it from `s_meta` on an input beat in IDLE (R23, R153). -/
theorem step_token {s t : State} (h : step s = .next t) :
    t.token = s.token ∨ s.phase = phIdle ∧ s.inputBeat = true ∧ t.token = s.pins.sMeta := by
  obtain ⟨i, u, hdec, hexec, rfl⟩ := step_next_inv h
  by_cases hi : i = .captureFirst
  · subst hi
    obtain ⟨hbeat, htok⟩ | htok := execCaptureFirst_token hexec
    · exact .inr ⟨phase_of_decode_captureFirst hdec, hbeat, htok⟩
    · exact .inl htok
  · exact .inl (exec_sameTokenAndPins hi hexec).token

/-- A step takes the next pins off the schedule (log 8), whatever the operation. -/
theorem step_pins_schedule {s t : State} (h : step s = .next t) :
    t.pins = s.nextPins ∧ t.schedule = s.schedule.tail := by
  obtain ⟨i, u, -, hexec, rfl⟩ := step_next_inv h
  obtain ⟨hpins, hsched⟩ := exec_pins_schedule hexec
  simp [State.nextPins, hpins, hsched]

theorem nextPins_mem (s : State) : s.nextPins ∈ s.pins :: s.schedule := by
  unfold State.nextPins
  cases s.schedule <;> simp

/-- The host presents nothing after a step that it did not present or schedule before. -/
theorem step_pins_subset {s t : State} (h : step s = .next t) :
    t.pins :: t.schedule ⊆ s.pins :: s.schedule := by
  obtain ⟨hpins, hsched⟩ := step_pins_schedule h
  rw [hpins, hsched]
  exact List.cons_subset.2 ⟨nextPins_mem s, List.subset_cons_of_subset _ (List.tail_subset _)⟩

/-! ## The token's width -/

theorem outBus_token_of_mValid {s : State} (h : s.mValid = true) : s.outBus.token = s.token := by
  simp [State.outBus, h, State.driven]

/-- The token, and every token the host presents or has scheduled, is below `2 ^ width`. -/
def TokensBelow (width : Nat) (s : State) : Prop :=
  s.token.toNat < 2 ^ width ∧ ∀ p ∈ s.pins :: s.schedule, p.sMeta.toNat < 2 ^ width

theorem tokensBelow_iff (width : Nat) (s : State) :
    TokensBelow width s ↔ s.token.toNat < 2 ^ width ∧ s.pins.sMeta.toNat < 2 ^ width ∧
      ∀ p ∈ s.schedule, p.sMeta.toNat < 2 ^ width := by
  simp [TokensBelow]

/-- A step never widens the token: the bound is inductive, for every width. -/
theorem step_tokensBelow {width : Nat} {s t : State} (hs : TokensBelow width s)
    (h : step s = .next t) : TokensBelow width t := by
  obtain ⟨htoken, hpins⟩ := hs
  refine ⟨?_, fun p hp => hpins p (step_pins_subset h hp)⟩
  obtain heq | ⟨-, -, heq⟩ := step_token h
  · rwa [heq]
  · rw [heq]
    exact hpins _ List.mem_cons_self

/-- Settles O34: the widths by the type of the token, and the bound by `step_tokensBelow`. -/
theorem metadataWidthIsKept : Obligations.MetadataWidthIsKept := by
  refine ⟨Nat.le_add_left .., fun s => ⟨s.outBus.token.isLt, outBus_token_of_mValid⟩,
    fun s t h => step_token h, fun width s t h hs => ?_⟩
  have ht : TokensBelow width t := step_tokensBelow ((tokensBelow_iff ..).2 hs) h
  obtain ⟨htoken, hpins, hsched⟩ := (tokensBelow_iff ..).1 ht
  refine ⟨htoken, hpins, hsched, fun hv => ?_⟩
  rwa [outBus_token_of_mValid hv]

end Machine

end Sys2Proof
end

section
/-!
PROOF. The layer that the statements on state share: the phase in which an operation is selected
(spec/30_encoding.md R88), and the two demap operations as one (spec/40_demapper.md R103).
-/

namespace Sys2Proof

/-- The phase whose rows select the operation (R88). RESET is selected by the pin `rst` and DROP by
nothing. -/
def Instr.phase? : Instr → Option Phase
  | .captureFirst => some Machine.phIdle
  | .capture => some Machine.phCapture
  | .guard => some Machine.phGuard
  | .genG4 => some Machine.phGen
  | .genG5 => some Machine.phGen
  | .demapHdr => some Machine.phHdr
  | .hdrParse => some Machine.phHparse
  | .lchk => some Machine.phLchk
  | .demapPay => some Machine.phPay
  | .crcInit => some Machine.phCrci
  | .crcByte => some Machine.phCrcb
  | .crcCmp => some Machine.phCrcc
  | .extractL55 => some Machine.phExtract
  | .extractLd5 => some Machine.phExtract
  | .extractReject => some Machine.phExtract
  | .filter => some Machine.phFilter
  | .emitByte => some Machine.phEmit
  | .reset => none
  | .drop _ => none

theorem opTable_phase? {r : OpRow} (hr : r ∈ opTable) : r.op.phase? = some (keyPhase r.value) := by
  revert r
  decide

theorem opTable_extractL55 {r : OpRow} (hr : r ∈ opTable) (ho : r.op = .extractL55) :
    r.mask = BitVec.allOnes 28 ∧
      r.value = 0xB#4 ++ ((0x55 : Byte) ++ Machine.l55Len : BitVec (8 + 16)) := by
  revert r
  decide

namespace Machine

/-- A state selects RESET by the pin, and otherwise an operation of its own phase. -/
theorem phase?_of_decode {s : State} {i : Instr} (h : decode s.selector = .ok i) :
    s.pins.rst = true ∧ i = .reset ∨ s.pins.rst = false ∧ i.phase? = some s.phase := by
  obtain ⟨hrst, hi⟩ | ⟨hrst, r, hr, rfl, hs⟩ := decode_ok_inv h
  · exact .inl ⟨hrst, hi⟩
  · refine .inr ⟨hrst, (opTable_phase? hr).trans (congrArg some ?_)⟩
    calc keyPhase r.value = keyPhase s.dkey := (keyPhase_of_selects hr hs).symm
      _ = s.phase := keyPhase_dkey s

/-- An operation that is not RESET is selected in its phase alone. -/
theorem phase_of_decode {s : State} {i : Instr} {p : Phase} (h : decode s.selector = .ok i)
    (hi : i.phase? = some p) : s.phase = p := by
  obtain ⟨-, rfl⟩ | ⟨-, hp⟩ := phase?_of_decode h
  · cases hi
  · exact Option.some.inj (hp.symm.trans hi)

/-- EXTRACT_L55 is selected for its own length alone (R130). -/
theorem plen_of_decode_extractL55 {s : State} (h : decode s.selector = .ok .extractL55) :
    s.plen = l55Len := by
  obtain ⟨-, hreset⟩ | ⟨-, r, hr, ho, hs⟩ := decode_ok_inv h
  · cases hreset
  · obtain ⟨hmask, hvalue⟩ := opTable_extractL55 hr ho
    have hdata : s.keyData = s.ptype ++ s.plen := by
      simp [State.keyData, phase_of_decode h rfl, phExtract, phGen]
    have hkey : s.phase ++ (s.ptype ++ s.plen : BitVec (8 + 16)) =
        0xB#4 ++ ((0x55 : Byte) ++ l55Len : BitVec (8 + 16)) := by
      rw [OpRow.selects, hmask, BitVec.and_allOnes, beq_iff_eq, hvalue] at hs
      rw [← hs, ← hdata]
      rfl
    obtain ⟨-, hfields⟩ := (append_eq_append_iff ..).1 hkey
    exact ((append_eq_append_iff ..).1 hfields).2

/-! ## The demap operations -/

/-- The state with byte `K` assembled, stored and counted, in the given phase. -/
def State.demapped (s : State) (next : Phase) : State :=
  { s.storeDec s.k (s.byteAtCursor s.bitCursor) with k := s.k + 1, phase := next }

/-- DEMAP_BYTE and then the given phase: what DEMAP_HDR and DEMAP_PAY have in common (R103, R111,
R114). -/
def demapOutcome (next : Phase) (s : State) : Host.Outcome State Fault Refusal :=
  if s.n ≤ s.bitCursor + 7 then .next (takeDrop .rawOor s)
  else if rawCap ≤ s.bitCursor + 7 then .fault (.noRawCell (s.bitCursor + 7))
  else if decCap ≤ s.k then .fault (.noDecCell s.k)
  else .next (s.demapped next)

/-- What follows DEMAP_BYTE's result in either operation, the next phase being chosen in the state
with the byte written. -/
def DemapResult.outcome (s : State) (next : State → Phase) :
    DemapResult → Host.Outcome State Fault Refusal
  | .outOfRange => raiseDrop .rawOor s
  | .noCell f => .fault f
  | .decoded t => .next (t.toPhase (next t))

theorem apply_demapByte {α : Type} (f : DemapResult → α) (s : State) :
    f (demapByte s) =
      if s.n ≤ s.bitCursor + 7 then f .outOfRange
      else if rawCap ≤ s.bitCursor + 7 then f (.noCell (.noRawCell (s.bitCursor + 7)))
      else if decCap ≤ s.k then f (.noCell (.noDecCell s.k))
      else f (.decoded { s.storeDec s.k (s.byteAtCursor s.bitCursor) with k := s.k + 1 }) := by
  simp only [demapByte, apply_ite f]

theorem execDemapHdr_eq (s : State) :
    execDemapHdr s = demapOutcome (if s.k + 1 = hdrLen then phHparse else phHdr) s :=
  apply_demapByte (DemapResult.outcome s fun t => if t.k = hdrLen then phHparse else phHdr) s

theorem execDemapPay_eq (s : State) :
    execDemapPay s = demapOutcome (if s.k + 1 = s.decLen then phCrci else phPay) s :=
  apply_demapByte (DemapResult.outcome s fun t => if t.k = t.decLen then phCrci else phPay) s

/-! ## Comparing two states -/

/-- Two choices on equivalent conditions are related when their branches are. -/
theorem ite_rel {α : Type} {R : α → α → Prop} {c c' : Prop} [Decidable c] [Decidable c']
    {a b a' b' : α} (hc : c' ↔ c) (ha : c → R a a') (hb : ¬ c → R b b') :
    R (if c then a else b) (if c' then a' else b') := by
  by_cases h : c
  · rw [if_pos h, if_pos (hc.2 h)]
    exact ha h
  · rw [if_neg h, if_neg (mt hc.1 h)]
    exact hb h

theorem dec16_congr {s s' : State} {i : Nat}
    (h : ∀ j < 2, s'.decCell (i + j) = s.decCell (i + j)) : s'.dec16 i = s.dec16 i :=
  congrArg₂ (· ++ ·) (h 0 (by decide)) (h 1 (by decide))

theorem dec32_congr {s s' : State} {i : Nat}
    (h : ∀ j < 4, s'.decCell (i + j) = s.decCell (i + j)) : s'.dec32 i = s.dec32 i :=
  congrArg₂ (· ++ ·) (dec16_congr fun j hj => h j (by omega))
    (dec16_congr fun j hj => by simpa only [Nat.add_assoc] using h (2 + j) (by omega))

/-! ## CAPTURE, EXTRACT_L55 and FILTER, branch by branch -/

theorem execCapture_eq (s : State) :
    execCapture s =
      if s.inputBeat then
        if s.n < rawCap then
          .next { s.storeRaw s.n (bitOf s.pins.sSample) with
                    n := min (s.n + 1) rawCap, phase := phaseAfterSample s.pins.sLast }
        else .next { s with n := min (s.n + 1) rawCap, phase := phaseAfterSample s.pins.sLast }
      else .next s := by
  unfold execCapture
  dsimp only
  split_ifs <;> rfl

theorem execExtractL55_eq (s : State) :
    execExtractL55 s =
      if s.decReadable off55Uptime 4 then
        if s.decReadable off55Meter 4 then
          .next { s with upTime := s.dec32 off55Uptime, meterId := s.dec32 off55Meter,
                         meterId2 := 0, layout := layoutL55, phase := phFilter }
        else raiseDrop .decOor { s with upTime := s.dec32 off55Uptime }
      else raiseDrop .decOor s := rfl

theorem execFilter_eq (s : State) :
    execFilter s =
      if s.accepted then .next { s with accept := 1, k := 0, phase := phEmit }
      else raiseDrop .filter { s with accept := 0 } := by
  unfold execFilter
  cases s.accepted <;> rfl

end Machine

end Sys2Proof
end

section
/-!
PROOF. What an earlier message left behind never matters (spec/10_state.md R39). Two runs stay
alike: in each phase they agree on the registers and cells that a later operation of the same
message can read before writing them, and every operation carries the agreement of its phase to the
agreement of the phase it leads to.
-/

namespace Sys2Proof.Machine

/-! ## When one outcome follows another -/

/-- Where the first outcome is a next state so is the second, and the two states are related. -/
def Follows (R : State → State → Prop) (o o' : Host.Outcome State Fault Refusal) : Prop :=
  ∀ t, o = .next t → ∃ t', o' = .next t' ∧ R t t'

theorem follows_next {R : State → State → Prop} {t t' : State} (h : R t t') :
    Follows R (.next t) (.next t') := by
  rintro u ⟨⟩
  exact ⟨t', rfl, h⟩

theorem follows_fault {R : State → State → Prop} {f : Fault}
    {o : Host.Outcome State Fault Refusal} : Follows R (.fault f) o := by
  intro t h
  cases h

/-- A choice on the same condition follows branch by branch. -/
theorem follows_ite {R : State → State → Prop} {c c' : Prop} [Decidable c] [Decidable c']
    {a b a' b' : Host.Outcome State Fault Refusal} (hc : c' ↔ c) (ha : c → Follows R a a')
    (hb : ¬ c → Follows R b b') : Follows R (if c then a else b) (if c' then a' else b') :=
  ite_rel (R := Follows R) hc ha hb

/-! ## What two alike runs agree on -/

/-- The captured message: its token, its length and its samples. -/
def SameCaptured (s s' : State) : Prop :=
  s'.token = s.token ∧ s'.n = s.n ∧ 1 ≤ s.n ∧ ∀ a < s.n, s'.rawCell a = s.rawCell a

/-- `DEC[0 .. count-1]`. -/
def SameBytes (count : Nat) (s s' : State) : Prop :=
  ∀ a < count, s'.decCell a = s.decCell a

/-- Demapping in progress: the captured message, the cursor and the bytes below `K`. -/
def SameDecoding (s s' : State) : Prop :=
  SameCaptured s s' ∧ s'.stride = s.stride ∧ s'.k = s.k ∧ SameBytes s.k s s'

/-- The parsed header. -/
def SameHeader (s s' : State) : Prop :=
  s'.ptype = s.ptype ∧ s'.plen = s.plen

/-- The decoded message: token, header and all decoded bytes. -/
def SameDecoded (s s' : State) : Prop :=
  s'.token = s.token ∧ SameHeader s s' ∧ SameBytes s.decLen s s'

/-- The extracted fields. -/
def SameFields (s s' : State) : Prop :=
  s'.layout = s.layout ∧ s'.meterId = s.meterId ∧ s'.meterId2 = s.meterId2 ∧
    s'.upTime = s.upTime

/-- What is live in each phase, with the bound on `K` that keeps its reads among the live bytes. In
IDLE nothing is. -/
def SameLive (p : Phase) (s s' : State) : Prop :=
  match p.toNat with
  | 0x1 => SameCaptured s s'
  | 0x2 => SameCaptured s s'
  | 0x3 => SameCaptured s s'
  | 0x4 => SameDecoding s s'
  | 0x5 => SameDecoding s s' ∧ s.k = hdrLen
  | 0x6 => SameDecoding s s' ∧ s.k = hdrLen ∧ SameHeader s s'
  | 0x7 => SameDecoding s s' ∧ SameHeader s s'
  | 0x8 => SameDecoded s s'
  | 0x9 => SameDecoded s s' ∧ s'.crc = s.crc ∧ s'.k = s.k ∧ s.k < s.plen.toNat + 2
  | 0xA => SameDecoded s s' ∧ s'.crc = s.crc
  | 0xB => SameDecoded s s' ∧ s'.crcMatch = s.crcMatch
  | 0xC => SameDecoded s s' ∧ s'.crcMatch = s.crcMatch ∧ SameFields s s'
  | 0xD => SameDecoded s s' ∧ SameFields s s' ∧ s'.k = s.k ∧ s.k < s.decLen
  | _ => True

/-- What two runs agree on in every phase: the phase, the configuration, the host, and the beats
sent since their outboxes were `out` and `out'`. -/
structure SameFrame (out out' : List OutBus) (s s' : State) : Prop where
  phase    : s'.phase = s.phase
  cfg      : s'.cfg = s.cfg
  pins     : s'.pins = s.pins
  schedule : s'.schedule = s.schedule
  sent     : ∃ sent, s.outbox = out ++ sent ∧ s'.outbox = out' ++ sent

/-- The relation that every step keeps. -/
structure Alike (out out' : List OutBus) (s s' : State) : Prop where
  frame : SameFrame out out' s s'
  live  : SameLive s.phase s s'

section
variable {out out' : List OutBus} {s s' : State}

theorem Alike.live_in {p : Phase} (h : Alike out out' s s') (hp : s.phase = p) :
    SameLive p s s' := hp ▸ h.live

/-- Nothing of an ended message is live. -/
theorem SameFrame.alike_idle (h : SameFrame out out' s s') (hp : s.phase = phIdle) :
    Alike out out' s s' := by
  refine ⟨h, ?_⟩
  rw [hp]
  exact trivial

theorem Alike.follows_drop (h : Alike out out' s s') (c : DropCause) :
    Follows (Alike out out') (raiseDrop c s) (raiseDrop c s') :=
  follows_next (SameFrame.alike_idle { h.frame with phase := rfl } rfl)

/-! ## Parts of the agreement that are cited on their own -/

theorem SameCaptured.n_eq (h : SameCaptured s s') : s'.n = s.n := h.2.1

theorem SameDecoding.n_eq (h : SameDecoding s s') : s'.n = s.n := h.1.n_eq

theorem SameDecoding.k_eq (h : SameDecoding s s') : s'.k = s.k := h.2.2.1

theorem SameDecoding.bytes (h : SameDecoding s s') : SameBytes s.k s s' := h.2.2.2

theorem SameHeader.plen_eq (h : SameHeader s s') : s'.plen = s.plen := h.2

theorem SameDecoded.header (h : SameDecoded s s') : SameHeader s s' := h.2.1

theorem SameDecoded.bytes (h : SameDecoded s s') : SameBytes s.decLen s s' := h.2.2

/-! ## What agreement says of the values that operations compute -/

theorem Alike.inputBeat_eq (h : Alike out out' s s') : s'.inputBeat = s.inputBeat := by
  simp [State.inputBeat, State.sReady, h.frame.phase, h.frame.pins]

theorem Alike.mValid_eq (h : Alike out out' s s') : s'.mValid = s.mValid := by
  simp [State.mValid, h.frame.phase, h.frame.pins]

theorem Alike.outputBeat_eq (h : Alike out out' s s') : s'.outputBeat = s.outputBeat := by
  simp [State.outputBeat, h.mValid_eq, h.frame.pins]

theorem SameCaptured.byteAtCursor_eq {c : Nat} (h : SameCaptured s s') (hc : c + 7 < s.n) :
    s'.byteAtCursor c = s.byteAtCursor c := by
  obtain ⟨-, -, -, hraw⟩ := h
  exact byteAtCursor_congr fun j hj => hraw _ (by omega)

theorem SameBytes.dec16_eq {count i : Nat} (h : SameBytes count s s') (hi : i + 2 ≤ count) :
    s'.dec16 i = s.dec16 i :=
  dec16_congr fun _ _ => h _ (by omega)

theorem SameBytes.dec32_eq {count i : Nat} (h : SameBytes count s s') (hi : i + 4 ≤ count) :
    s'.dec32 i = s.dec32 i :=
  dec32_congr fun _ _ => h _ (by omega)

theorem SameHeader.decLen_eq (h : SameHeader s s') : s'.decLen = s.decLen := by
  obtain ⟨-, hplen⟩ := h
  rw [State.decLen, State.decLen, hplen]

theorem SameHeader.decReadable_eq (h : SameHeader s s') (i n : Nat) :
    s'.decReadable i n = s.decReadable i n := by
  rw [State.decReadable, State.decReadable, h.decLen_eq]

/-- In EMIT both runs drive the same beat. -/
theorem Alike.driven_eq (h : Alike out out' s s') (hp : s.phase = phEmit) :
    s'.driven = s.driven := by
  obtain ⟨⟨htoken, hheader, hdec⟩, ⟨hlayout, hmeter, hmeter2, htime⟩, hk, hlt⟩ := h.live_in hp
  have hlen := hheader.decLen_eq
  obtain ⟨hptype, hplen⟩ := hheader
  simp [State.driven, State.lastByte, hdec _ hlt, *]

/-- Alike states select the same operation. -/
theorem Alike.selector_eq (h : Alike out out' s s') : s'.selector = s.selector := by
  have hkey : s'.keyData = s.keyData := by
    unfold State.keyData
    rw [h.frame.phase]
    split_ifs with hgen hextract
    · obtain ⟨-, -, hpos, hraw⟩ := h.live_in hgen
      rw [hraw 0 hpos]
    · obtain ⟨⟨-, ⟨hptype, hplen⟩, -⟩, -⟩ := h.live_in hextract
      rw [hptype, hplen]
    · rfl
  rw [State.selector, State.selector, State.dkey, State.dkey, h.frame.phase, h.frame.pins, hkey]

/-- Alike states show the same on the ports. -/
theorem Alike.portView_eq (h : Alike out out' s s') : s.portView = s'.portView := by
  have hready : s'.sReady = s.sReady := by simp [State.sReady, h.frame.phase, h.frame.pins]
  have hbus : s.mValid = true → s'.outBus = s.outBus := fun hv => by
    rw [State.outBus, State.outBus, h.mValid_eq, if_pos hv, if_pos hv,
      h.driven_eq ((mValid_iff s).1 hv).2]
  rw [State.portView, State.portView, hready, h.mValid_eq]
  split_ifs with hv
  · rw [hbus hv]
  · rfl

/-! ## Agreement after a write -/

/-- The same bit stored in the same cell of `RAW`. -/
theorem rawCell_eq_of_write {t t' : State} {i a : Nat} {b : Bit}
    (ht : t.raw = Memory.write s.raw i b) (ht' : t'.raw = Memory.write s'.raw i b)
    (h : a ≠ i → s'.rawCell a = s.rawCell a) : t'.rawCell a = t.rawCell a := by
  by_cases ha : a = i
  · rw [ha, (rawCell_of_write ht).1, (rawCell_of_write ht').1]
  · rw [(rawCell_of_write ht).2 a ha, (rawCell_of_write ht').2 a ha, h ha]

/-- The same byte stored in the same cell of `DEC`. -/
theorem decCell_eq_of_write {t t' : State} {i a : Nat} {v : Byte}
    (ht : t.dec = Memory.write s.dec i v) (ht' : t'.dec = Memory.write s'.dec i v)
    (h : a ≠ i → s'.decCell a = s.decCell a) : t'.decCell a = t.decCell a := by
  by_cases ha : a = i
  · rw [ha, (decCell_of_write ht).1, (decCell_of_write ht').1]
  · rw [(decCell_of_write ht).2 a ha, (decCell_of_write ht').2 a ha, h ha]

theorem SameCaptured.live_afterSample {t t' : State} (h : SameCaptured t t') (last : Bool) :
    SameLive (phaseAfterSample last) t t' := by
  cases last <;> exact h

theorem SameDecoding.bitCursor_eq (h : SameDecoding s s') : s'.bitCursor = s.bitCursor := by
  obtain ⟨-, hstride, hk, -⟩ := h
  rw [State.bitCursor, State.bitCursor, hstride, hk]

/-- A decoded byte extends the agreement by one cell. -/
theorem SameDecoding.demapped (h : SameDecoding s s') (hc : s.bitCursor + 7 < s.n) (p : Phase) :
    SameDecoding (s.demapped p) (s'.demapped p) := by
  have hcursor := h.bitCursor_eq
  obtain ⟨hcaptured, hstride, hk, hdec⟩ := h
  refine ⟨hcaptured, hstride, congrArg (· + 1) hk, fun a (ha : a < s.k + 1) => ?_⟩
  refine decCell_eq_of_write (s := s) (s' := s') (i := s.k) (v := s.byteAtCursor s.bitCursor) rfl ?_
    fun hne => hdec a (by omega)
  rw [← hcaptured.byteAtCursor_eq hc, ← hcursor, ← hk]
  rfl

/-- All bytes of the body demapped: what is left to agree on is the decoded message. -/
theorem SameDecoding.decoded (h : SameDecoding s s') (hheader : SameHeader s s')
    (hk : s.k = s.decLen) : SameDecoded s s' := by
  obtain ⟨⟨htoken, -⟩, -, -, hdec⟩ := h
  exact ⟨htoken, hheader, hk ▸ hdec⟩

/-! ## Each operation carries the agreement on -/

theorem alike_captureFirst (h : Alike out out' s s') :
    Follows (Alike out out') (execCaptureFirst s) (execCaptureFirst s') := by
  unfold execCaptureFirst
  rw [h.frame.pins]
  refine follows_ite (by rw [h.inputBeat_eq]) (fun _ => ?_) fun _ => follows_next h
  refine follows_next ⟨{ h.frame with phase := rfl }, ?_⟩
  refine SameCaptured.live_afterSample ?_ _
  refine ⟨rfl, rfl, le_rfl, fun a (ha : a < 1) => ?_⟩
  exact rawCell_eq_of_write rfl rfl fun hne => absurd (Nat.lt_one_iff.1 ha) hne

theorem rawCap_pos : 0 < rawCap := by decide

theorem alike_capture (h : Alike out out' s s') (hp : s.phase = phCapture) :
    Follows (Alike out out') (execCapture s) (execCapture s') := by
  obtain ⟨htoken, hn, hpos, hraw⟩ := h.live_in hp
  have hcap := rawCap_pos
  rw [execCapture_eq, execCapture_eq, h.frame.pins, hn]
  refine follows_ite (by rw [h.inputBeat_eq]) (fun _ => ?_) fun _ => follows_next h
  refine follows_ite Iff.rfl (fun _ => ?_) fun hge => ?_
  · refine follows_next ⟨{ h.frame with phase := rfl },
      SameCaptured.live_afterSample ?_ _⟩
    refine ⟨htoken, rfl, le_min (by omega) hcap, fun a (ha : a < min (s.n + 1) rawCap) => ?_⟩
    exact rawCell_eq_of_write rfl rfl fun hne => hraw a (by omega)
  · refine follows_next ⟨{ h.frame with phase := rfl, pins := rfl },
      SameCaptured.live_afterSample ?_ _⟩
    exact ⟨htoken, rfl, le_min (by omega) hcap,
      fun a (ha : a < min (s.n + 1) rawCap) => hraw a (by omega)⟩

theorem alike_guard (h : Alike out out' s s') (hp : s.phase = phGuard) :
    Follows (Alike out out') (execGuard s) (execGuard s') := by
  have hcaptured : SameCaptured s s' := h.live_in hp
  exact follows_ite (by rw [hcaptured.n_eq]) (fun _ => h.follows_drop _)
    fun _ => follows_next ⟨{ h.frame with phase := rfl }, hcaptured⟩

/-- GEN starts the demapping with nothing decoded. -/
theorem alike_gen (h : Alike out out' s s') (hp : s.phase = phGen) (gen : Bit) (stride : BitVec 4) :
    Alike out out' { s with gen := gen, stride := stride, k := 0, phase := phHdr }
      { s' with gen := gen, stride := stride, k := 0, phase := phHdr } :=
  have hcaptured : SameCaptured s s' := h.live_in hp
  ⟨{ h.frame with phase := rfl }, hcaptured, rfl, rfl, nofun⟩

/-- Both demap operations, once one more decoded byte gives the agreement of the next phase. -/
theorem alike_demapOutcome (h : Alike out out' s s') (hd : SameDecoding s s') {p : Phase}
    (hnext : SameDecoding (s.demapped p) (s'.demapped p) →
      SameLive p (s.demapped p) (s'.demapped p)) :
    Follows (Alike out out') (demapOutcome p s) (demapOutcome p s') := by
  have hcursor := hd.bitCursor_eq
  refine follows_ite (by rw [hcursor, hd.n_eq]) (fun _ => h.follows_drop .rawOor) fun hc => ?_
  refine follows_ite (by rw [hcursor]) (fun _ => follows_fault) fun _ => ?_
  refine follows_ite (by rw [hd.k_eq]) (fun _ => follows_fault) fun _ => ?_
  exact follows_next ⟨{ h.frame with phase := rfl }, hnext (hd.demapped (not_le.1 hc) p)⟩

theorem alike_demapHdr (h : Alike out out' s s') (hp : s.phase = phHdr) :
    Follows (Alike out out') (execDemapHdr s) (execDemapHdr s') := by
  have hd : SameDecoding s s' := h.live_in hp
  rw [execDemapHdr_eq, execDemapHdr_eq, hd.k_eq]
  refine alike_demapOutcome h hd fun hd' => ?_
  split_ifs at hd' ⊢ with hlast
  · exact ⟨hd', hlast⟩
  · exact hd'

theorem alike_hdrParse (h : Alike out out' s s') (hp : s.phase = phHparse) :
    Follows (Alike out out') (execHdrParse s) (execHdrParse s') := by
  obtain ⟨hd, hk⟩ : SameDecoding s s' ∧ s.k = hdrLen := h.live_in hp
  have hdec : SameBytes hdrLen s s' := hk ▸ hd.bytes
  exact follows_next ⟨{ h.frame with phase := rfl }, hd, hk, hdec 1 (by decide),
    hdec.dec16_eq (by decide)⟩

theorem alike_lchk (h : Alike out out' s s') (hp : s.phase = phLchk) :
    Follows (Alike out out') (execLchk s) (execLchk s') := by
  obtain ⟨hd, hk, hheader⟩ : SameDecoding s s' ∧ s.k = hdrLen ∧ SameHeader s s' := h.live_in hp
  unfold execLchk
  rw [hheader.plen_eq, hd.n_eq]
  refine follows_ite Iff.rfl (fun _ => h.follows_drop _) fun _ => ?_
  refine follows_next ⟨{ h.frame with phase := rfl }, ?_⟩
  rw [toPhase_phase]
  split_ifs with hzero
  · exact hd.decoded hheader (by simp [hk, State.decLen, hzero])
  · exact ⟨hd, hheader⟩

theorem alike_demapPay (h : Alike out out' s s') (hp : s.phase = phPay) :
    Follows (Alike out out') (execDemapPay s) (execDemapPay s') := by
  obtain ⟨hd, hheader⟩ : SameDecoding s s' ∧ SameHeader s s' := h.live_in hp
  rw [execDemapPay_eq, execDemapPay_eq, hd.k_eq, hheader.decLen_eq]
  refine alike_demapOutcome h hd fun hd' => ?_
  split_ifs at hd' ⊢ with hlast
  · exact hd'.decoded hheader hlast
  · exact ⟨hd', hheader⟩

theorem alike_crcInit (h : Alike out out' s s') (hp : s.phase = phCrci) :
    Follows (Alike out out') (execCrcInit s) (execCrcInit s') := by
  obtain ⟨htoken, ⟨hptype, hplen⟩, hdec⟩ : SameDecoded s s' := h.live_in hp
  unfold execCrcInit
  rw [hplen, h.frame.cfg]
  refine follows_ite Iff.rfl (fun _ => h.follows_drop _) fun hlen => ?_
  refine follows_next ⟨{ h.frame with phase := rfl, cfg := rfl }, ?_⟩
  dsimp only
  split_ifs with htwo
  · exact ⟨⟨htoken, ⟨hptype, rfl⟩, hdec⟩, rfl⟩
  · refine ⟨⟨htoken, ⟨hptype, rfl⟩, hdec⟩, rfl, rfl, ?_⟩
    show 4 < s.plen.toNat + 2
    omega

theorem alike_crcByte (h : Alike out out' s s') (hp : s.phase = phCrcb) :
    Follows (Alike out out') (execCrcByte s) (execCrcByte s') := by
  obtain ⟨⟨htoken, ⟨hptype, hplen⟩, hdec⟩, hcrc, hk, hlt⟩ := h.live_in hp
  have hbyte : s'.decCell s.k = s.decCell s.k := hdec _ (by unfold State.decLen hdrLen; omega)
  unfold execCrcByte
  rw [hk, hcrc, hbyte, hplen]
  refine follows_ite Iff.rfl (fun _ => follows_fault) fun _ => ?_
  refine follows_next ⟨{ h.frame with phase := rfl }, ?_⟩
  dsimp only
  split_ifs with hlast
  · exact ⟨⟨htoken, ⟨hptype, rfl⟩, hdec⟩, rfl⟩
  · exact ⟨⟨htoken, ⟨hptype, rfl⟩, hdec⟩, rfl, rfl, show s.k + 1 < s.plen.toNat + 2 by omega⟩

theorem alike_crcCmp (h : Alike out out' s s') (hp : s.phase = phCrcc) :
    Follows (Alike out out') (execCrcCmp s) (execCrcCmp s') := by
  obtain ⟨⟨htoken, ⟨hptype, hplen⟩, hdec⟩, hcrc⟩ : SameDecoded s s' ∧ s'.crc = s.crc :=
    h.live_in hp
  unfold execCrcCmp
  rw [hcrc, hplen, hdec.dec16_eq (by unfold State.decLen hdrLen; omega)]
  exact follows_next ⟨{ h.frame with phase := rfl }, ⟨htoken, ⟨hptype, rfl⟩, hdec⟩, rfl⟩

theorem alike_extractL55 (h : Alike out out' s s') (hp : s.phase = phExtract) :
    Follows (Alike out out') (execExtractL55 s) (execExtractL55 s') := by
  obtain ⟨hdecoded, hmatch⟩ : SameDecoded s s' ∧ s'.crcMatch = s.crcMatch := h.live_in hp
  have hread : ∀ i n, s'.decReadable i n = s.decReadable i n := hdecoded.header.decReadable_eq
  rw [execExtractL55_eq, execExtractL55_eq, hread, hread]
  refine follows_ite Iff.rfl (fun htime => ?_) fun _ => h.follows_drop _
  refine follows_ite Iff.rfl (fun hmeter => ?_) fun _ => ?_
  · exact follows_next ⟨{ h.frame with phase := rfl }, hdecoded, hmatch, rfl,
      hdecoded.bytes.dec32_eq ((decReadable_iff ..).1 hmeter), rfl,
      hdecoded.bytes.dec32_eq ((decReadable_iff ..).1 htime)⟩
  · exact follows_next (SameFrame.alike_idle { h.frame with phase := rfl } rfl)

theorem alike_extractLd5 (h : Alike out out' s s') (hp : s.phase = phExtract) :
    Follows (Alike out out') (execExtractLd5 s) (execExtractLd5 s') := by
  obtain ⟨hdecoded, hmatch⟩ : SameDecoded s s' ∧ s'.crcMatch = s.crcMatch := h.live_in hp
  refine follows_ite (by rw [hdecoded.header.decReadable_eq]) (fun hread => ?_)
    fun _ => h.follows_drop _
  have hlen := (decReadable_iff ..).1 hread
  exact follows_next ⟨{ h.frame with phase := rfl }, hdecoded, hmatch, rfl,
    hdecoded.bytes.dec32_eq hlen, hdecoded.bytes.dec32_eq (le_trans (by decide) hlen), rfl⟩

theorem alike_filter (h : Alike out out' s s') (hp : s.phase = phFilter) :
    Follows (Alike out out') (execFilter s) (execFilter s') := by
  obtain ⟨hdecoded, hmatch, hfields⟩ :
    SameDecoded s s' ∧ s'.crcMatch = s.crcMatch ∧ SameFields s s' := h.live_in hp
  have haccepted : s'.accepted = s.accepted := by
    obtain ⟨-, ⟨hptype, hplen⟩, -⟩ := hdecoded
    obtain ⟨-, hmeter, hmeter2, -⟩ := hfields
    rw [State.accepted, State.accepted, h.frame.cfg, hmatch, hmeter, hmeter2, hplen, hptype]
  rw [execFilter_eq, execFilter_eq]
  refine follows_ite (by rw [haccepted]) (fun _ => ?_) fun _ => ?_
  · refine follows_next ⟨{ h.frame with phase := rfl }, hdecoded, hfields, rfl, ?_⟩
    exact Nat.add_pos_left (show 0 < hdrLen by decide) _
  · exact follows_next (SameFrame.alike_idle { h.frame with phase := rfl } rfl)

theorem alike_emitByte (h : Alike out out' s s') (hp : s.phase = phEmit) :
    Follows (Alike out out') (execEmitByte s) (execEmitByte s') := by
  have hdriven := h.driven_eq hp
  obtain ⟨hdecoded, hfields, hk, hlt⟩ :
    SameDecoded s s' ∧ SameFields s s' ∧ s'.k = s.k ∧ s.k < s.decLen := h.live_in hp
  have hlast : s'.lastByte = s.lastByte := by
    rw [State.lastByte, State.lastByte, hk, hdecoded.header.decLen_eq]
  obtain ⟨sent, hout, hout'⟩ := h.frame.sent
  have hsent : ∃ sent, s.outbox ++ [s.driven] = out ++ sent ∧
      s'.outbox ++ [s'.driven] = out' ++ sent :=
    ⟨sent ++ [s.driven], by rw [hout, List.append_assoc], by rw [hout', hdriven, List.append_assoc]⟩
  refine follows_ite (by rw [h.outputBeat_eq]) (fun _ => ?_) fun _ => follows_next h
  refine follows_ite (by rw [hk]) (fun _ => follows_fault) fun _ => ?_
  refine follows_ite (by rw [hlast]) (fun _ => ?_) fun hmore => ?_
  · exact follows_next (SameFrame.alike_idle { h.frame with phase := rfl, sent := hsent } rfl)
  · refine follows_next ⟨{ h.frame with phase := rfl, sent := hsent }, hdecoded, hfields,
      congrArg (· + 1) hk, ?_⟩
    have hne : s.k ≠ s.decLen - 1 := by simpa [State.lastByte] using hmore
    show s.k + 1 < s.decLen
    omega

theorem alike_reset (h : Alike out out' s s') :
    Follows (Alike out out') (execReset s) (execReset s') :=
  follows_next (SameFrame.alike_idle
    { h.frame with phase := rfl, cfg := congrArg Pins.cfg h.frame.pins } rfl)

/-- Every operation of the phase of two alike states leads to alike states. -/
theorem alike_exec {i : Instr} (h : Alike out out' s s') (hi : i.phase? = some s.phase) :
    Follows (Alike out out') (exec i s) (exec i s') := by
  cases i with
  | captureFirst => exact alike_captureFirst h
  | capture => exact alike_capture h (Option.some.inj hi).symm
  | guard => exact alike_guard h (Option.some.inj hi).symm
  | genG4 => exact follows_next (alike_gen h (Option.some.inj hi).symm 0 strideG4)
  | genG5 => exact follows_next (alike_gen h (Option.some.inj hi).symm 1 strideG5)
  | demapHdr => exact alike_demapHdr h (Option.some.inj hi).symm
  | hdrParse => exact alike_hdrParse h (Option.some.inj hi).symm
  | lchk => exact alike_lchk h (Option.some.inj hi).symm
  | demapPay => exact alike_demapPay h (Option.some.inj hi).symm
  | crcInit => exact alike_crcInit h (Option.some.inj hi).symm
  | crcByte => exact alike_crcByte h (Option.some.inj hi).symm
  | crcCmp => exact alike_crcCmp h (Option.some.inj hi).symm
  | extractL55 => exact alike_extractL55 h (Option.some.inj hi).symm
  | extractLd5 => exact alike_extractLd5 h (Option.some.inj hi).symm
  | extractReject => exact h.follows_drop .layout
  | filter => exact alike_filter h (Option.some.inj hi).symm
  | emitByte => exact alike_emitByte h (Option.some.inj hi).symm
  | reset => cases hi
  | drop cause => cases hi

/-! ## Steps and runs -/

/-- Moving to the next edge touches nothing that is live. -/
theorem Alike.advance (h : Alike out out' s s') : Alike out out' s.advance s'.advance := by
  refine ⟨{ h.frame with pins := ?_, schedule := congrArg List.tail h.frame.schedule }, h.live⟩
  rw [advance_pins, advance_pins, State.nextPins, State.nextPins, h.frame.pins, h.frame.schedule]

theorem alike_step (h : Alike out out' s s') : Follows (Alike out out') (step s) (step s') := by
  intro t ht
  obtain ⟨i, u, hdec, hexec, rfl⟩ := step_next_inv ht
  have hfollows : Follows (Alike out out') (exec i s) (exec i s') := by
    obtain ⟨-, rfl⟩ | ⟨-, hi⟩ := phase?_of_decode hdec
    · exact alike_reset h
    · exact alike_exec h hi
  obtain ⟨u', hexec', hu⟩ := hfollows u hexec
  exact ⟨u'.advance, step_of_decode (h.selector_eq ▸ hdec) hexec', hu.advance⟩

theorem steps_succ_of_step {count : Nat} {u : State} (h : step s = .next u) :
    steps (count + 1) s = steps count u := by
  have hcore : Sys2Proof.core.step s = .next u := h
  simp only [steps, Host.Core.run, hcore]
  rfl

theorem steps_succ_next_inv {count : Nat} {t : State} (h : steps (count + 1) s = .next t) :
    ∃ u, step s = .next u ∧ steps count u = .next t := by
  simp only [steps, Host.Core.run] at h
  split at h
  · rename_i u hu
    exact ⟨u, hu, h⟩
  · cases h
  · cases h

theorem alike_steps (count : Nat) (h : Alike out out' s s') :
    Follows (Alike out out') (steps count s) (steps count s') := by
  induction count generalizing s s' with
  | zero => exact follows_next h
  | succ count ih =>
    intro t ht
    obtain ⟨u, hu, hrest⟩ := steps_succ_next_inv ht
    obtain ⟨u', hu', hsame⟩ := alike_step h u hu
    rw [steps_succ_of_step hu']
    exact ih hsame t hrest

end

/-- Settles O50: in IDLE nothing is live, so any two blocks with the same configuration and host are
alike, and `alike_steps` keeps them so. -/
theorem staleStateNeverMatters : Obligations.StaleStateNeverMatters := by
  intro s s' hidle hidle' hcfg hpins hsched count t ht
  have hframe : SameFrame s.outbox s'.outbox s s' :=
    ⟨hidle'.trans hidle.symm, hcfg.symm, hpins.symm, hsched.symm, [], by simp⟩
  obtain ⟨t', ht', hsame⟩ := alike_steps count (hframe.alike_idle hidle) t ht
  obtain ⟨sent, hout, hout'⟩ := hsame.frame.sent
  exact ⟨t', sent, ht', hout, hout', hsame.portView_eq⟩

end Sys2Proof.Machine
end

section
/-!
PROOF. The configuration (spec/10_state.md R29, spec/45_interface.md R163): no operation but RESET
writes `CFG_*`, and none but RESET sees the `cfg_*` pins.
-/

namespace Sys2Proof.Machine

/-- No operation but RESET writes the configuration. -/
theorem exec_cfg {i : Instr} {s t : State} (hi : i ≠ .reset) (h : exec i s = .next t) :
    t.cfg = s.cfg := by
  cases i with
  | captureFirst => obtain ⟨-, rfl⟩ | ⟨-, rfl⟩ := execCaptureFirst_next_inv h <;> rfl
  | capture =>
    obtain ⟨-, -, rfl⟩ | ⟨-, -, rfl⟩ | ⟨-, rfl⟩ := execCapture_next_inv h <;> rfl
  | guard => obtain ⟨-, rfl⟩ | ⟨-, rfl⟩ := execGuard_next_inv h <;> rfl
  | genG4 => cases h; rfl
  | genG5 => cases h; rfl
  | demapHdr => obtain ⟨-, rfl⟩ | ⟨-, -, -, rfl⟩ := execDemapHdr_next_inv h <;> rfl
  | hdrParse => cases h; rfl
  | lchk => obtain ⟨-, rfl⟩ | ⟨-, rfl⟩ := execLchk_next_inv h <;> rfl
  | demapPay => obtain ⟨-, rfl⟩ | ⟨-, -, -, rfl⟩ := execDemapPay_next_inv h <;> rfl
  | crcInit => obtain ⟨-, rfl⟩ | ⟨-, rfl⟩ := execCrcInit_next_inv h <;> rfl
  | crcByte => obtain ⟨-, rfl⟩ := execCrcByte_next_inv h; rfl
  | crcCmp => cases h; rfl
  | extractL55 =>
    obtain ⟨-, rfl⟩ | ⟨-, -, rfl⟩ | ⟨-, rfl⟩ := execExtractL55_next_inv h <;> rfl
  | extractLd5 => obtain ⟨-, rfl⟩ | ⟨-, rfl⟩ := execExtractLd5_next_inv h <;> rfl
  | extractReject => cases h; rfl
  | filter => obtain ⟨-, rfl⟩ | ⟨-, rfl⟩ := execFilter_next_inv h <;> rfl
  | emitByte =>
    obtain ⟨-, -, -, rfl⟩ | ⟨-, -, -, rfl⟩ | ⟨-, rfl⟩ := execEmitByte_next_inv h <;> rfl
  | reset => exact absurd rfl hi
  | drop cause => cases h; rfl

/-- The state with other levels on the `cfg_*` pins. -/
def State.withCfgPins (c : FilterConfig) (s : State) : State :=
  { s with pins := { s.pins with cfg := c } }

/-- A choice on a condition that the change of view leaves as it was, branch by branch. -/
theorem eq_mapNext_ite {view : State → State} {p p' : Prop} [Decidable p] [Decidable p']
    {a b a' b' : Host.Outcome State Fault Refusal} (hp : p' ↔ p) (ha : a' = mapNext view a)
    (hb : b' = mapNext view b) :
    (if p' then a' else b') = mapNext view (if p then a else b) :=
  ite_rel (R := fun o o' => o' = mapNext view o) hp (fun _ => ha) fun _ => hb

theorem demapOutcome_withCfgPins (next : Phase) (c : FilterConfig) (s : State) :
    demapOutcome next (s.withCfgPins c) = mapNext (State.withCfgPins c) (demapOutcome next s) :=
  eq_mapNext_ite Iff.rfl rfl (eq_mapNext_ite Iff.rfl rfl (eq_mapNext_ite Iff.rfl rfl rfl))

/-- No operation but RESET sees the `cfg_*` pins: neither the conditions that it tests nor the
values that it writes depend on them. -/
theorem exec_withCfgPins {i : Instr} (hi : i ≠ .reset) (c : FilterConfig) (s : State) :
    exec i (s.withCfgPins c) = mapNext (State.withCfgPins c) (exec i s) := by
  cases i with
  | captureFirst => exact eq_mapNext_ite Iff.rfl rfl rfl
  | capture =>
    simp only [exec, execCapture_eq]
    exact eq_mapNext_ite Iff.rfl (eq_mapNext_ite Iff.rfl rfl rfl) rfl
  | guard => exact eq_mapNext_ite Iff.rfl rfl rfl
  | demapHdr =>
    simp only [exec, execDemapHdr_eq]
    exact demapOutcome_withCfgPins _ c s
  | lchk => exact eq_mapNext_ite Iff.rfl rfl rfl
  | demapPay =>
    simp only [exec, execDemapPay_eq]
    exact demapOutcome_withCfgPins _ c s
  | crcInit => exact eq_mapNext_ite Iff.rfl rfl rfl
  | crcByte => exact eq_mapNext_ite Iff.rfl rfl rfl
  | extractL55 =>
    simp only [exec, execExtractL55_eq]
    exact eq_mapNext_ite Iff.rfl (eq_mapNext_ite Iff.rfl rfl rfl) rfl
  | extractLd5 => exact eq_mapNext_ite Iff.rfl rfl rfl
  | filter =>
    simp only [exec, execFilter_eq]
    exact eq_mapNext_ite Iff.rfl rfl rfl
  | emitByte =>
    exact eq_mapNext_ite Iff.rfl (eq_mapNext_ite Iff.rfl rfl (eq_mapNext_ite Iff.rfl rfl rfl)) rfl
  | reset => exact absurd rfl hi
  | genG4 | genG5 | hdrParse | crcCmp | extractReject | drop cause => rfl

/-- Settles O29: `exec_cfg` for what is written, `exec_withCfgPins` for what is read. -/
theorem onlyResetReadsAndWritesConfiguration :
    Obligations.OnlyResetReadsAndWritesConfiguration :=
  fun _ s hi => ⟨fun _ h => exec_cfg hi h, fun c => exec_withCfgPins hi c s⟩

end Sys2Proof.Machine
end

section
/-!
PROOF. Which cells are read (spec/10_state.md R40, spec/20_memory.md R50 to R58): in a state that
meets the invariant every listed cell has been written for the current message, and an operation's
outcome depends on no cell that is not listed.
-/

namespace Sys2Proof.Machine

/-! ## The cells read have been written -/

theorem between_of_phase {s : State} {p lo hi : Phase} (hp : s.phase = p) (h : lo ≤ p ∧ p ≤ hi) :
    s.between lo hi := by
  rwa [State.between, hp]

theorem Inv.rawWritten_of_lt {s : State} (h : Inv s) (hp : s.between phCapture phEmit) {a : Nat}
    (ha : a < s.n) : s.rawWritten a ∧ a < s.n :=
  ⟨(h.message.captured hp).2 a ha, ha⟩

/-- DEMAP_BYTE reads below `N` (R52). -/
theorem lt_of_mem_demapReads {s : State} {a : Nat}
    (ha : a ∈ if s.n ≤ s.bitCursor + 7 then [] else (List.range 8).map (s.bitCursor + ·)) :
    a < s.n := by
  split_ifs at ha with hc
  · cases ha
  · obtain ⟨j, hj, rfl⟩ := List.mem_map.1 ha
    have := List.mem_range.1 hj
    omega

theorem rawReads_written {s : State} {i : Instr} (hinv : Inv s) (hi : decode s.selector = .ok i)
    {a : Nat} (ha : a ∈ rawReads i s) : s.rawWritten a ∧ a < s.n := by
  cases i with
  | genG4 | genG5 =>
    have hp : s.between phCapture phEmit :=
      between_of_phase (phase_of_decode hi rfl) (by decide)
    obtain ⟨hpos, -⟩ := hinv.message.captured hp
    exact hinv.rawWritten_of_lt hp (List.mem_singleton.1 ha ▸ hpos)
  | demapHdr | demapPay =>
    exact hinv.rawWritten_of_lt (between_of_phase (phase_of_decode hi rfl) (by decide))
      (lt_of_mem_demapReads ha)
  | _ => cases ha

/-- `DEC[a]` has been written, inside the decoded length, and holds the byte of the samples. -/
def State.decodedAt (s : State) (a : Nat) : Prop :=
  s.decWritten a ∧ a < s.decLen ∧ s.byteIndex a + 7 < s.n ∧
    s.decCell a = s.byteAtCursor (s.byteIndex a)

theorem Inv.decodedAt_of_lt {s : State} (h : Inv s) (hp : s.between phCrci phEmit) {a : Nat}
    (ha : a < s.decLen) : s.decodedAt a := by
  obtain ⟨hwritten, hindex, hcell⟩ := h.message.bodyDone hp a ha
  exact ⟨hwritten, ha, hindex, hcell⟩

/-- Every operation but HDR_PARSE reads decoded bytes after the body has been demapped. -/
theorem decReads_decodedAt {s : State} {i : Instr} (hinv : Inv s) (hi : decode s.selector = .ok i)
    (hne : i ≠ .hdrParse) {a : Nat} (ha : a ∈ decReads i s) : s.decodedAt a := by
  cases i with
  | hdrParse => exact absurd rfl hne
  | crcByte =>
    have hp := phase_of_decode hi rfl
    obtain ⟨-, hlt, -⟩ := hinv.message.crcRunning hp
    refine hinv.decodedAt_of_lt (between_of_phase hp (by decide)) ?_
    rw [List.mem_singleton.1 ha, State.decLen, hdrLen]
    omega
  | crcCmp =>
    refine hinv.decodedAt_of_lt (between_of_phase (phase_of_decode hi rfl) (by decide)) ?_
    have hlast : ∀ b ∈ [s.plen.toNat + 2, s.plen.toNat + 3], b < 4 + s.plen.toNat := by
      simp
      omega
    exact hlast a ha
  | extractL55 =>
    refine hinv.decodedAt_of_lt (between_of_phase (phase_of_decode hi rfl) (by decide)) ?_
    rw [State.decLen, plen_of_decode_extractL55 hi]
    have hlast : ∀ b ∈ [18, 19, 20, 21, 24, 25, 26, 27], b < hdrLen + l55Len.toNat := by decide
    exact hlast a ha
  | extractLd5 =>
    refine hinv.decodedAt_of_lt (between_of_phase (phase_of_decode hi rfl) (by decide)) ?_
    unfold decReads at ha
    split_ifs at ha with hread
    · have hlast : ∀ b ∈ [5, 6, 7, 8, 9, 10, 11, 12], b < offD5Meter + 4 := by decide
      exact (hlast a ha).trans_le ((decReadable_iff ..).1 hread)
    · cases ha
  | emitByte =>
    have hp := phase_of_decode hi rfl
    obtain ⟨-, -, hlt⟩ := hinv.message.emitting hp
    exact hinv.decodedAt_of_lt (between_of_phase hp (by decide)) (List.mem_singleton.1 ha ▸ hlt)
  | _ => cases ha

/-- HDR_PARSE reads three of the four header bytes (R112). -/
theorem hdrParse_reads_decoded {s : State} (hinv : Inv s) (hi : decode s.selector = .ok .hdrParse)
    {a : Nat} (ha : a ∈ decReads .hdrParse s) :
    s.decWritten a ∧ s.byteIndex a + 7 < s.n ∧ s.decCell a = s.byteAtCursor (s.byteIndex a) := by
  have hp := phase_of_decode hi rfl
  obtain ⟨-, hdone⟩ := hinv.message.headerDone (between_of_phase hp (by decide))
  have hlast : ∀ b ∈ [1, 2, 3], b < hdrLen := by decide
  exact hdone a (hlast a ha)

/-! ## No other cell is read -/

/-- The state with other buffers. -/
def State.withBuffers (s : State) (raw : Memory 1) (dec : Memory 8) : State :=
  { s with raw := raw, dec := dec }

theorem SameReads.exists_withBuffers {i : Instr} {s s' : State} (h : SameReads i s s') :
    ∃ raw dec, s' = s.withBuffers raw dec := ⟨_, _, h.rest⟩

theorem outcomesAgree_ite {s s' : State} {c c' : Prop} [Decidable c] [Decidable c']
    {a b a' b' : Host.Outcome State Fault Refusal} (hc : c' ↔ c) (ha : c → outcomesAgree s s' a a')
    (hb : ¬ c → outcomesAgree s s' b b') :
    outcomesAgree s s' (if c then a else b) (if c' then a' else b') :=
  ite_rel (R := outcomesAgree s s') hc ha hb

/-- An operation of phase GEN lists the cell that selects it. -/
theorem zero_mem_rawReads {i : Instr} {s : State} (h : i.phase? = some phGen) :
    0 ∈ rawReads i s := by
  cases i with
  | genG4 | genG5 => exact List.mem_singleton_self 0
  | reset | drop cause => cases h
  | _ => exact absurd h (by decide)

/-- The selection depends on the listed cells alone. -/
theorem SameReads.selects {i : Instr} {s s' : State} (h : SameReads i s s')
    (hi : decode s.selector = .ok i) : decode s'.selector = .ok i := by
  obtain ⟨raw, dec, rfl⟩ := h.exists_withBuffers
  obtain ⟨hrst, rfl⟩ | ⟨-, hphase⟩ := phase?_of_decode hi
  · exact if_pos hrst
  · have hkey : (s.withBuffers raw dec).keyData = s.keyData := by
      refine ite_rel (R := Eq) Iff.rfl (fun hgen => ?_) fun _ => rfl
      exact congrArg _ (h.raw 0 (zero_mem_rawReads (hphase.trans (congrArg some hgen))))
    have hsel : (s.withBuffers raw dec).selector = s.selector :=
      congrArg (fun data => (⟨s.pins.rst, s.phase ++ data⟩ : Selector)) hkey
    rwa [hsel]

section
variable {s : State} {raw : Memory 1} {dec : Memory 8}

theorem outcomesAgree_drop (c : DropCause) :
    outcomesAgree s (s.withBuffers raw dec) (raiseDrop c s) (raiseDrop c (s.withBuffers raw dec)) :=
  sameWrites_of_untouched rfl rfl rfl

theorem mem_demapReads (hc : s.bitCursor + 7 < s.n) {j : Nat} (hj : j < 8) :
    s.bitCursor + j ∈
      if s.n ≤ s.bitCursor + 7 then [] else (List.range 8).map (s.bitCursor + ·) := by
  rw [if_neg (not_le.2 hc)]
  exact List.mem_map_of_mem (List.mem_range.2 hj)

theorem outcomesAgree_demapOutcome (next : Phase)
    (h : ∀ a ∈ if s.n ≤ s.bitCursor + 7 then [] else (List.range 8).map (s.bitCursor + ·),
      (s.withBuffers raw dec).rawCell a = s.rawCell a) :
    outcomesAgree s (s.withBuffers raw dec) (demapOutcome next s)
      (demapOutcome next (s.withBuffers raw dec)) := by
  refine outcomesAgree_ite Iff.rfl (fun _ => outcomesAgree_drop .rawOor) fun hc => ?_
  refine outcomesAgree_ite Iff.rfl (fun _ => rfl) fun _ => ?_
  refine outcomesAgree_ite Iff.rfl (fun _ => rfl) fun _ => ?_
  have hbyte : (s.withBuffers raw dec).byteAtCursor s.bitCursor = s.byteAtCursor s.bitCursor :=
    byteAtCursor_congr fun j hj => h _ (mem_demapReads (not_le.1 hc) hj)
  refine sameWrites_of_decWrite (i := s.k) (v := s.byteAtCursor s.bitCursor) ?_ rfl rfl
  rw [← hbyte]
  rfl

theorem frame_captureFirst :
    outcomesAgree s (s.withBuffers raw dec) (execCaptureFirst s)
      (execCaptureFirst (s.withBuffers raw dec)) :=
  outcomesAgree_ite Iff.rfl
    (fun _ => sameWrites_of_rawWrite (i := 0) (b := bitOf s.pins.sSample) rfl rfl rfl)
    fun _ => sameWrites_of_untouched rfl rfl rfl

theorem frame_capture :
    outcomesAgree s (s.withBuffers raw dec) (execCapture s)
      (execCapture (s.withBuffers raw dec)) := by
  rw [execCapture_eq, execCapture_eq]
  refine outcomesAgree_ite Iff.rfl (fun _ => ?_) fun _ => sameWrites_of_untouched rfl rfl rfl
  exact outcomesAgree_ite Iff.rfl
    (fun _ => sameWrites_of_rawWrite (i := s.n) (b := bitOf s.pins.sSample) rfl rfl rfl)
    fun _ => sameWrites_of_untouched rfl rfl rfl

theorem frame_hdrParse (h : SameReads .hdrParse s (s.withBuffers raw dec)) :
    outcomesAgree s (s.withBuffers raw dec) (execHdrParse s)
      (execHdrParse (s.withBuffers raw dec)) := by
  have htype := h.dec 1 List.mem_cons_self
  have hlen : (s.withBuffers raw dec).dec16 2 = s.dec16 2 :=
    dec16_congr fun j hj => h.dec _ ((by decide : ∀ j < 2, 2 + j ∈ [1, 2, 3]) j hj)
  refine sameWrites_of_untouched ?_ rfl rfl
  rw [← htype, ← hlen]
  rfl

theorem frame_crcByte (h : SameReads .crcByte s (s.withBuffers raw dec)) :
    outcomesAgree s (s.withBuffers raw dec) (execCrcByte s)
      (execCrcByte (s.withBuffers raw dec)) := by
  have hbyte := h.dec s.k (List.mem_singleton_self _)
  refine outcomesAgree_ite Iff.rfl (fun _ => rfl) fun _ => sameWrites_of_untouched ?_ rfl rfl
  rw [← hbyte]
  rfl

theorem frame_crcCmp (h : SameReads .crcCmp s (s.withBuffers raw dec)) :
    outcomesAgree s (s.withBuffers raw dec) (execCrcCmp s)
      (execCrcCmp (s.withBuffers raw dec)) := by
  have hstored :
      (s.withBuffers raw dec).dec16 (s.plen.toNat + 2) = s.dec16 (s.plen.toNat + 2) := by
    refine dec16_congr fun j hj => h.dec _ ?_
    interval_cases j <;> simp [decReads]
  refine sameWrites_of_untouched ?_ rfl rfl
  rw [← hstored]
  rfl

theorem frame_extractL55 (h : SameReads .extractL55 s (s.withBuffers raw dec)) :
    outcomesAgree s (s.withBuffers raw dec) (execExtractL55 s)
      (execExtractL55 (s.withBuffers raw dec)) := by
  have htime : (s.withBuffers raw dec).dec32 off55Uptime = s.dec32 off55Uptime :=
    dec32_congr fun j hj => h.dec _
      ((by decide : ∀ j < 4, off55Uptime + j ∈ [18, 19, 20, 21, 24, 25, 26, 27]) j hj)
  have hmeter : (s.withBuffers raw dec).dec32 off55Meter = s.dec32 off55Meter :=
    dec32_congr fun j hj => h.dec _
      ((by decide : ∀ j < 4, off55Meter + j ∈ [18, 19, 20, 21, 24, 25, 26, 27]) j hj)
  rw [execExtractL55_eq, execExtractL55_eq, htime, hmeter]
  refine outcomesAgree_ite Iff.rfl (fun _ => ?_) fun _ => outcomesAgree_drop .decOor
  exact outcomesAgree_ite Iff.rfl (fun _ => sameWrites_of_untouched rfl rfl rfl)
    fun _ => sameWrites_of_untouched rfl rfl rfl

theorem frame_extractLd5 (h : SameReads .extractLd5 s (s.withBuffers raw dec)) :
    outcomesAgree s (s.withBuffers raw dec) (execExtractLd5 s)
      (execExtractLd5 (s.withBuffers raw dec)) := by
  refine outcomesAgree_ite Iff.rfl (fun hread => ?_) fun _ => outcomesAgree_drop .decOor
  have hreads : decReads .extractLd5 s = [5, 6, 7, 8, 9, 10, 11, 12] := if_pos hread
  have hmeter2 : (s.withBuffers raw dec).dec32 offD5Meter2 = s.dec32 offD5Meter2 :=
    dec32_congr fun j hj => h.dec _ (hreads ▸
      (by decide : ∀ j < 4, offD5Meter2 + j ∈ [5, 6, 7, 8, 9, 10, 11, 12]) j hj)
  have hmeter : (s.withBuffers raw dec).dec32 offD5Meter = s.dec32 offD5Meter :=
    dec32_congr fun j hj => h.dec _ (hreads ▸
      (by decide : ∀ j < 4, offD5Meter + j ∈ [5, 6, 7, 8, 9, 10, 11, 12]) j hj)
  refine sameWrites_of_untouched ?_ rfl rfl
  rw [← hmeter2, ← hmeter]
  rfl

theorem frame_filter :
    outcomesAgree s (s.withBuffers raw dec) (execFilter s)
      (execFilter (s.withBuffers raw dec)) := by
  rw [execFilter_eq, execFilter_eq]
  exact outcomesAgree_ite Iff.rfl (fun _ => sameWrites_of_untouched rfl rfl rfl)
    fun _ => sameWrites_of_untouched rfl rfl rfl

theorem frame_emitByte (h : SameReads .emitByte s (s.withBuffers raw dec)) :
    outcomesAgree s (s.withBuffers raw dec) (execEmitByte s)
      (execEmitByte (s.withBuffers raw dec)) := by
  have hdriven : (s.withBuffers raw dec).driven = s.driven :=
    congrArg (fun byte => { s.driven with byte := byte }) (h.dec s.k (List.mem_singleton_self _))
  refine outcomesAgree_ite Iff.rfl (fun _ => ?_) fun _ => sameWrites_of_untouched rfl rfl rfl
  refine outcomesAgree_ite Iff.rfl (fun _ => rfl) fun _ => ?_
  refine outcomesAgree_ite Iff.rfl (fun _ => sameWrites_of_untouched ?_ rfl rfl)
    fun _ => sameWrites_of_untouched ?_ rfl rfl
  · rw [hdriven]
    rfl
  · rw [hdriven]
    rfl

/-- No operation depends on a cell that it does not list. -/
theorem frame_exec {i : Instr} (h : SameReads i s (s.withBuffers raw dec)) :
    outcomesAgree s (s.withBuffers raw dec) (exec i s) (exec i (s.withBuffers raw dec)) := by
  cases i with
  | captureFirst => exact frame_captureFirst
  | capture => exact frame_capture
  | guard | lchk =>
    exact outcomesAgree_ite Iff.rfl (fun _ => outcomesAgree_drop _)
      fun _ => sameWrites_of_untouched rfl rfl rfl
  | genG4 | genG5 | reset => exact sameWrites_of_untouched rfl rfl rfl
  | demapHdr =>
    simp only [exec, execDemapHdr_eq]
    exact outcomesAgree_demapOutcome _ h.raw
  | hdrParse => exact frame_hdrParse h
  | demapPay =>
    simp only [exec, execDemapPay_eq]
    exact outcomesAgree_demapOutcome _ h.raw
  | crcInit =>
    exact outcomesAgree_ite Iff.rfl (fun _ => outcomesAgree_drop _)
      fun _ => sameWrites_of_untouched rfl rfl rfl
  | crcByte => exact frame_crcByte h
  | crcCmp => exact frame_crcCmp h
  | extractL55 => exact frame_extractL55 h
  | extractLd5 => exact frame_extractLd5 h
  | extractReject | drop cause => exact outcomesAgree_drop _
  | filter => exact frame_filter
  | emitByte => exact frame_emitByte h

end

/-- Settles O40: the cells listed have been written, by the invariant's clauses on the phase of the
selected operation, and the lists are complete, by `SameReads.selects` and `frame_exec`. -/
theorem onlyWrittenCellsAreRead : Obligations.OnlyWrittenCellsAreRead := by
  refine ⟨fun s i hinv hi => ⟨fun a ha => rawReads_written hinv hi ha, fun a ha => ?_⟩,
    fun i s s' h => ⟨h.selects, ?_⟩⟩
  · by_cases hparse : i = .hdrParse
    · subst hparse
      obtain ⟨hwritten, hindex, hcell⟩ := hdrParse_reads_decoded hinv hi ha
      exact ⟨hwritten, fun hne => absurd rfl hne, hindex, hcell⟩
    · obtain ⟨hwritten, hlt, hindex, hcell⟩ := decReads_decodedAt hinv hi hparse ha
      exact ⟨hwritten, fun _ => hlt, hindex, hcell⟩
  · obtain ⟨raw, dec, rfl⟩ := h.exists_withBuffers
    exact frame_exec h

end Sys2Proof.Machine
end

section
/-!
PROOF. What RESET leaves (spec/10_state.md R41): the values the table fixes, and both buffers as
they were.
-/

namespace Sys2Proof.Machine

/-- In IDLE no output byte is offered. -/
theorem mValid_of_idle {s : State} (h : s.phase = phIdle) : s.mValid = false := by
  simp [State.mValid, h, phIdle, phEmit]

/-- In IDLE a sample can be taken exactly when `rst` is not asserted (R155). -/
theorem sReady_of_idle {s : State} (h : s.phase = phIdle) : s.sReady = !s.pins.rst := by
  simp [State.sReady, h]

/-- Settles O35: by the two laws of the ports in IDLE. -/
theorem resetStateValues : Obligations.ResetStateValues := by
  refine ⟨fun s t ht => ?_, fun cfg => ⟨rfl, rfl, rfl, mValid_of_idle rfl, fun hrst => ?_⟩⟩
  · have hphase : t.phase = phIdle := by cases ht; rfl
    have hready := sReady_of_idle hphase
    have hvalid := mValid_of_idle hphase
    cases ht
    refine ⟨rfl, rfl, rfl, hvalid, fun hrst => ?_, fun hrst => ?_, fun _ => rfl, fun _ => rfl⟩
    · rw [hready, hrst, Bool.not_true]
    · rw [hready, hrst, Bool.not_false]
  · rw [sReady_of_idle rfl, hrst, Bool.not_false]

end Sys2Proof.Machine
end

section
/-!
PROOF. The buffers (spec/20_memory.md R50 to R58). One law says all that an operation does to `RAW`,
`N`, `DEC` and the output port; from it: no sample while busy (R54), both buffers stay canonical
(R50), and nothing is emitted before acceptance (R62).
-/

namespace Sys2Proof.Machine

/-! ## What an operation does to the buffers and the output port -/

/-- Each clause: left alone, or written by its own operations, inside the buffer. -/
structure StorageEffect (i : Instr) (s t : State) : Prop where
  raw    : t.raw = s.raw ∨ ∃ a < rawCap, (i = .captureFirst ∧ a = 0 ∨ i = .capture ∧ a = s.n) ∧
    t.raw = Memory.write s.raw a (bitOf s.pins.sSample)
  n      : t.n = s.n ∨ i = .captureFirst ∨ i = .capture
  dec    : t.dec = s.dec ∨ (i = .demapHdr ∨ i = .demapPay) ∧ s.k < decCap ∧
    t.dec = Memory.write s.dec s.k (s.byteAtCursor s.bitCursor)
  outbox : t.outbox = s.outbox ∨ i = .emitByte ∧ s.outputBeat = true ∧
    t.outbox = s.outbox ++ [s.driven]

theorem storageEffect_of_kept {i : Instr} {s t : State} (hraw : t.raw = s.raw) (hn : t.n = s.n)
    (hdec : t.dec = s.dec) (hout : t.outbox = s.outbox) : StorageEffect i s t :=
  ⟨.inl hraw, .inl hn, .inl hdec, .inl hout⟩

/-- A byte demapped in either caller: one cell of `DEC`, and neither `RAW` nor `N`. -/
theorem storageEffect_demapped {i : Instr} {s : State} {next : Phase}
    (hi : i = .demapHdr ∨ i = .demapPay) (hk : s.k < decCap) :
    StorageEffect i s (s.demapped next) :=
  ⟨.inl rfl, .inl rfl, .inr ⟨hi, hk, rfl⟩, .inl rfl⟩

theorem exec_storageEffect {i : Instr} {s t : State} (h : exec i s = .next t) :
    StorageEffect i s t := by
  cases i with
  | captureFirst =>
    obtain ⟨-, rfl⟩ | ⟨-, rfl⟩ := execCaptureFirst_next_inv h
    · exact ⟨.inr ⟨0, rawCap_pos, .inl ⟨rfl, rfl⟩, rfl⟩, .inr (.inl rfl), .inl rfl, .inl rfl⟩
    · exact storageEffect_of_kept rfl rfl rfl rfl
  | capture =>
    obtain ⟨-, hn, rfl⟩ | ⟨-, -, rfl⟩ | ⟨-, rfl⟩ := execCapture_next_inv h
    · exact ⟨.inr ⟨s.n, hn, .inr ⟨rfl, rfl⟩, rfl⟩, .inr (.inr rfl), .inl rfl, .inl rfl⟩
    · exact ⟨.inl rfl, .inr (.inr rfl), .inl rfl, .inl rfl⟩
    · exact storageEffect_of_kept rfl rfl rfl rfl
  | demapHdr =>
    obtain ⟨-, rfl⟩ | ⟨-, -, hk, rfl⟩ := execDemapHdr_next_inv h
    · exact storageEffect_of_kept rfl rfl rfl rfl
    · exact storageEffect_demapped (.inl rfl) hk
  | demapPay =>
    obtain ⟨-, rfl⟩ | ⟨-, -, hk, rfl⟩ := execDemapPay_next_inv h
    · exact storageEffect_of_kept rfl rfl rfl rfl
    · exact storageEffect_demapped (.inr rfl) hk
  | emitByte =>
    obtain ⟨hb, -, -, rfl⟩ | ⟨hb, -, -, rfl⟩ | ⟨-, rfl⟩ := execEmitByte_next_inv h
    · exact ⟨.inl rfl, .inl rfl, .inl rfl, .inr ⟨rfl, hb, rfl⟩⟩
    · exact ⟨.inl rfl, .inl rfl, .inl rfl, .inr ⟨rfl, hb, rfl⟩⟩
    · exact storageEffect_of_kept rfl rfl rfl rfl
  | guard =>
    obtain ⟨-, rfl⟩ | ⟨-, rfl⟩ := execGuard_next_inv h <;> exact storageEffect_of_kept rfl rfl rfl rfl
  | lchk =>
    obtain ⟨-, rfl⟩ | ⟨-, rfl⟩ := execLchk_next_inv h <;> exact storageEffect_of_kept rfl rfl rfl rfl
  | crcInit =>
    obtain ⟨-, rfl⟩ | ⟨-, rfl⟩ := execCrcInit_next_inv h <;>
      exact storageEffect_of_kept rfl rfl rfl rfl
  | crcByte =>
    obtain ⟨-, rfl⟩ := execCrcByte_next_inv h
    exact storageEffect_of_kept rfl rfl rfl rfl
  | extractL55 =>
    obtain ⟨-, rfl⟩ | ⟨-, -, rfl⟩ | ⟨-, rfl⟩ := execExtractL55_next_inv h <;>
      exact storageEffect_of_kept rfl rfl rfl rfl
  | extractLd5 =>
    obtain ⟨-, rfl⟩ | ⟨-, rfl⟩ := execExtractLd5_next_inv h <;>
      exact storageEffect_of_kept rfl rfl rfl rfl
  | filter =>
    obtain ⟨-, rfl⟩ | ⟨-, rfl⟩ := execFilter_next_inv h <;>
      exact storageEffect_of_kept rfl rfl rfl rfl
  | genG4 | genG5 | hdrParse | crcCmp | extractReject | reset | drop cause =>
    cases h
    exact storageEffect_of_kept rfl rfl rfl rfl

/-- Only the two capture operations write `RAW` and `N` (R54). -/
theorem exec_captured_kept {i : Instr} {s t : State} (hfirst : i ≠ .captureFirst)
    (hcapture : i ≠ .capture) (h : exec i s = .next t) : t.raw = s.raw ∧ t.n = s.n := by
  obtain ⟨hraw, hn, -, -⟩ := exec_storageEffect h
  refine ⟨hraw.resolve_right ?_, hn.resolve_right (not_or.2 ⟨hfirst, hcapture⟩)⟩
  rintro ⟨a, -, ⟨hi, -⟩ | ⟨hi, -⟩, -⟩
  · exact hfirst hi
  · exact hcapture hi

/-! ## The obligations -/

/-- Settles O28: a busy phase selects neither capture operation, and no other takes a sample. -/
theorem noSampleTakenWhileBusy : Obligations.NoSampleTakenWhileBusy := by
  intro s t hidle hcapture hstep
  obtain ⟨i, u, hdec, hexec, rfl⟩ := step_next_inv hstep
  have hfirst : i ≠ .captureFirst := fun hi => hidle (phase_of_decode hdec (hi ▸ rfl))
  have hnext : i ≠ .capture := fun hi => hcapture (phase_of_decode hdec (hi ▸ rfl))
  obtain ⟨hraw, hn⟩ := exec_captured_kept hfirst hnext hexec
  refine ⟨Bool.eq_false_iff.2 fun hbeat => ?_, hn, (exec_sameTokenAndPins hfirst hexec).token,
    rawCell_congr hraw⟩
  obtain ⟨-, -, hphase⟩ := (inputBeat_iff s).1 hbeat
  exact not_or.2 ⟨hidle, hcapture⟩ hphase

/-- No operation writes outside a buffer, so each keeps the canonical form. -/
theorem exec_memoryOk {i : Instr} {s t : State} (hs : MemoryOk s) (h : exec i s = .next t) :
    MemoryOk t := by
  obtain ⟨hraw, -, hdec, -⟩ := exec_storageEffect h
  constructor
  · obtain hkept | ⟨a, ha, -, hwrite⟩ := hraw
    · exact hkept ▸ hs.raw
    · exact hwrite ▸ Memory.wf_write _ hs.raw ha
  · obtain hkept | ⟨-, hk, hwrite⟩ := hdec
    · exact hkept ▸ hs.dec
    · exact hwrite ▸ Memory.wf_write _ hs.dec hk

/-- Settles O37: by `exec_memoryOk`, moving to the next edge leaving both buffers alone. -/
theorem stepKeepsBuffersCanonical : Obligations.StepKeepsBuffersCanonical := by
  intro s t hs hstep
  obtain ⟨i, u, -, hexec, rfl⟩ := step_next_inv hstep
  obtain ⟨hraw, hdec⟩ := exec_memoryOk hs hexec
  exact ⟨hraw, hdec⟩

/-- Settles O43: a transfer is made by EMIT_BYTE alone, on an output beat, which passes in EMIT alone,
where the invariant says that the message has been accepted. -/
theorem nothingEmittedBeforeAcceptance : Obligations.NothingEmittedBeforeAcceptance := by
  intro s t hinv hstep
  obtain ⟨i, u, -, hexec, rfl⟩ := step_next_inv hstep
  refine (exec_storageEffect hexec).outbox.imp_right fun ⟨_, hbeat, hout⟩ => ?_
  obtain ⟨-, hphase, -⟩ := (outputBeat_iff s).1 hbeat
  obtain ⟨haccept, haccepted, -⟩ := hinv.message.emitting hphase
  exact ⟨hphase, haccept, haccepted, hout⟩

end Sys2Proof.Machine
end

section
/-!
PROOF. Samples at `RAW_CAP` and above (spec/20_memory.md R53): the message-level function reads only
below `RAW_CAP`, and asks of the message's length only whether it passes bounds below it.
-/

namespace Sys2Proof.Machine

/-! ## What a decoded byte depends on -/

theorem sumOfBits_congr {samples samples' : List Byte} {c : Nat}
    (h : ∀ j < 8, sampleBit samples' (c + j) = sampleBit samples (c + j)) :
    sumOfBits samples' c = sumOfBits samples c := by
  unfold sumOfBits
  congr 1
  refine List.map_congr_left fun j hj => ?_
  rw [h j ((by decide : ∀ j ∈ [0, 1, 2, 3, 4, 5, 6, 7], j < 8) j hj)]

/-- A byte depends on its eight samples, and on the length only as far as it covers them (R75). -/
theorem messageByte_congr {samples samples' : List Byte} {stride k : Nat}
    (hlen : samples'.length ≤ pDataBase + k * stride + 7 ↔
      samples.length ≤ pDataBase + k * stride + 7)
    (hbits : ∀ j < 8, sampleBit samples' (pDataBase + k * stride + j) =
      sampleBit samples (pDataBase + k * stride + j)) :
    messageByte samples' stride k = messageByte samples stride k := by
  unfold messageByte
  rw [sumOfBits_congr hbits]
  exact ite_rel (R := Eq) hlen.symm (fun _ => rfl) fun _ => rfl

/-- Consecutive bytes agree when each of them does. -/
theorem messageBytes_congr {samples samples' : List Byte} {stride k count : Nat}
    (h : ∀ a, k ≤ a → a < k + count →
      messageByte samples' stride a = messageByte samples stride a) :
    messageBytes samples' stride k count = messageBytes samples stride k count := by
  induction count generalizing k with
  | zero => rfl
  | succ count ih =>
    have hfirst := h k le_rfl (by omega)
    have hrest := ih (k := k + 1) fun a ha hlt => h a (by omega) (by omega)
    rw [messageBytes, messageBytes, hfirst, hrest]

/-! ## Cutting a message -/

theorem sampleBit_take {samples : List Byte} {cap i : Nat} (h : i < cap) :
    sampleBit (samples.take cap) i = sampleBit samples i := by
  unfold sampleBit
  rw [List.getD_eq_getElem?_getD, List.getD_eq_getElem?_getD, List.getElem?_take_of_lt h]

/-- A cut message passes a bound below the cut exactly when the message does. -/
theorem length_take_le_iff {samples : List Byte} {cap bound : Nat} (h : bound < cap) :
    (samples.take cap).length ≤ bound ↔ samples.length ≤ bound := by
  rw [List.length_take]
  omega

/-- A cut after the byte's last data bit leaves the byte as it was. -/
theorem messageByte_take {samples : List Byte} {cap stride k : Nat}
    (h : pDataBase + k * stride + 7 < cap) :
    messageByte (samples.take cap) stride k = messageByte samples stride k :=
  messageByte_congr (length_take_le_iff h) fun _ _ => sampleBit_take (by omega)

/-! ## The cut at `RAW_CAP` -/

theorem strideOf_le (gen : Bit) : (strideOf gen).toNat ≤ strideG5.toNat := by
  unfold strideOf
  split_ifs <;> decide

/-- `RAW_CAP` covers the data bits of every byte that `DEC` has a cell for, at either stride (R9). -/
theorem lastDataBit_lt_rawCap (gen : Bit) {k : Nat} (hk : k < decCap) :
    pDataBase + k * (strideOf gen).toNat + 7 < rawCap := by
  have hcursor : k * (strideOf gen).toNat ≤ (decCap - 1) * strideG5.toNat :=
    Nat.mul_le_mul (Nat.le_sub_one_of_lt hk) (strideOf_le gen)
  unfold rawCap
  omega

theorem messageBytes_take_rawCap (samples : List Byte) (gen : Bit) {k count : Nat}
    (h : k + count ≤ decCap) :
    messageBytes (samples.take rawCap) (strideOf gen).toNat k count =
      messageBytes samples (strideOf gen).toNat k count :=
  messageBytes_congr fun _ _ ha => messageByte_take (lastDataBit_lt_rawCap gen (ha.trans_le h))

theorem header_take_rawCap (samples : List Byte) (gen : Bit) :
    messageBytes (samples.take rawCap) (strideOf gen).toNat 0 hdrLen =
      messageBytes samples (strideOf gen).toNat 0 hdrLen :=
  messageBytes_take_rawCap samples gen (by decide)

/-- Every length a header can hold fits `DEC` (R9). -/
theorem body_take_rawCap (samples : List Byte) (gen : Bit) (plen : Half) :
    messageBytes (samples.take rawCap) (strideOf gen).toNat hdrLen plen.toNat =
      messageBytes samples (strideOf gen).toNat hdrLen plen.toNat :=
  messageBytes_take_rawCap samples gen (Nat.add_le_add_left (Nat.le_of_lt_succ plen.isLt) hdrLen)

theorem minLength_take_rawCap (samples : List Byte) :
    (samples.take rawCap).length < minSamples ↔ samples.length < minSamples := by
  have hcap : minSamples ≤ rawCap := by decide
  rw [List.length_take]
  omega

theorem lengthCheck_take_rawCap (samples : List Byte) (plen : Half) :
    (samples.take rawCap).length > plen.toNat ↔ samples.length > plen.toNat := by
  have hcap : 2 ^ 16 ≤ rawCap := by decide
  exact lt_iff_lt_of_le_iff_le (length_take_le_iff (plen.isLt.trans_le hcap))

/-- Settles O54: `decodeMessage` reads a message only through the marker, the header, the body and
two comparisons of its length, and each is the same for the message cut to `RAW_CAP`. -/
theorem samplesPastRawCapNeverMatter : Obligations.SamplesPastRawCapNeverMatter := by
  intro token samples cfg
  simp only [decodeMessage, minLength_take_rawCap, sampleBit_take rawCap_pos, header_take_rawCap,
    lengthCheck_take_rawCap, body_take_rawCap]

end Sys2Proof.Machine
end

section
/-!
PROOF. DEMAP_BYTE in both its callers (spec/40_demapper.md R103, spec/20_memory.md R57): the phase
selects the operation, and the operation is one common outcome.
-/

namespace Sys2Proof.Machine

/-- Outside GEN and EXTRACT the phase alone makes the key, so one row decides for every state
(R89). -/
theorem runsIn_of_decodeKey {i : Instr} {p : Phase} (hgen : p ≠ phGen) (hextract : p ≠ phExtract)
    (h : decodeKey (p ++ (0 : BitVec 24)) = .ok i) : runsIn i p := by
  rintro s hrst rfl
  have hkey : s.dkey = s.phase ++ (0 : BitVec 24) := by
    rw [State.dkey, State.keyData, if_neg hgen, if_neg hextract]
  have hdec : decode s.selector = .ok i := by
    rw [decode, State.selector, hrst, hkey]
    exact h
  rw [step, hdec]

/-- A data bit past the last sample drops the message, with nothing written (R57). -/
theorem demapOutcome_drop {s : State} (next : Phase) (h : s.n ≤ s.bitCursor + 7) :
    demapOutcome next s = .next (takeDrop .rawOor s) := if_pos h

/-- With all its samples captured, inside the buffers, a byte is demapped. -/
theorem demapOutcome_demapped {s : State} (next : Phase) (hn : s.bitCursor + 7 < s.n)
    (hcap : s.n ≤ rawCap) (hk : s.k < decCap) :
    demapOutcome next s = .next (s.demapped next) := by
  rw [demapOutcome, if_neg (by omega), if_neg (by omega), if_neg (by omega)]

/-- Settles O14: both callers are `demapOutcome` with their own next phase, and the one cell that
`demapped` writes holds the eight samples from the cursor on. -/
theorem demapByteAssemblesOneByte : Obligations.DemapByteAssemblesOneByte := by
  refine ⟨runsIn_of_decodeKey (by decide) (by decide) rfl,
    runsIn_of_decodeKey (by decide) (by decide) rfl, fun s i next hi => ?_⟩
  have hexec : exec i s = demapOutcome next s := by
    obtain ⟨rfl, rfl⟩ | ⟨rfl, rfl⟩ := hi
    · exact execDemapHdr_eq s
    · exact execDemapPay_eq s
  rw [hexec]
  refine ⟨demapOutcome_drop next, fun hn hcap hk =>
    ⟨_, demapOutcome_demapped next hn hcap hk, ?_⟩⟩
  obtain ⟨hcell, hother⟩ := decCell_of_write (s := s) (t := s.demapped next) rfl
  refine ⟨fun j => ?_, rfl, rfl, hother, rawCell_congr rfl, rfl⟩
  rw [hcell]
  exact byteAtCursor_getLsbD s s.bitCursor j

end Sys2Proof.Machine
end

section
/-!
PROOF. Whole messages (spec/30_encoding.md R75 to R77, R86, R92): which bytes a message decodes to and
how many samples they need, what of a message its result depends on, and the round trip from bytes to
samples and back.
-/

namespace Sys2Proof.Machine

/-! ## The decoded bytes in closed form -/

/-- The byte that the eight data bits of symbol `k` spell (R75, R76), whether or not the message has
them all. -/
def spelledByte (samples : List Byte) (stride k : Nat) : Byte :=
  BitVec.ofNat 8 (sumOfBits samples (pDataBase + k * stride))

theorem messageByte_eq_some_iff {samples : List Byte} {stride k : Nat} {b : Byte} :
    messageByte samples stride k = some b ↔
      pDataBase + k * stride + 8 ≤ samples.length ∧ b = spelledByte samples stride k := by
  unfold messageByte spelledByte
  split_ifs with hshort
  · simp only [false_iff]
    omega
  · simp only [Option.some.injEq, eq_comm (a := b), iff_and_self]
    omega

theorem messageBytes_succ_eq_some_iff {samples : List Byte} {stride k count : Nat}
    {bs : List Byte} :
    messageBytes samples stride k (count + 1) = some bs ↔
      ∃ b rest, messageByte samples stride k = some b ∧
        messageBytes samples stride (k + 1) count = some rest ∧ bs = b :: rest := by
  rw [messageBytes]
  cases messageByte samples stride k <;> cases messageBytes samples stride (k + 1) count <;>
    simp [eq_comm]

/-- Consecutive bytes can be decoded exactly when the last of them can (R86), and they are the bytes
spelled by their symbols. -/
theorem messageBytes_eq_some_iff {samples : List Byte} {stride k count : Nat} {bs : List Byte} :
    messageBytes samples stride k count = some bs ↔
      (0 < count → pDataBase + (k + count - 1) * stride + 8 ≤ samples.length) ∧
        bs = (List.range' k count).map (spelledByte samples stride) := by
  induction count generalizing k bs with
  | zero => simp [messageBytes, eq_comm]
  | succ count ih =>
    have hcover : pDataBase + k * stride + 8 ≤ samples.length ∧
        (0 < count → pDataBase + (k + 1 + count - 1) * stride + 8 ≤ samples.length) ↔
        pDataBase + (k + count) * stride + 8 ≤ samples.length := by
      have hmono : k * stride ≤ (k + count) * stride := Nat.mul_le_mul_right _ (Nat.le_add_right ..)
      obtain rfl | hpos := Nat.eq_zero_or_pos count
      · simp
      · rw [show k + 1 + count - 1 = k + count by omega]
        omega
    simp only [messageBytes_succ_eq_some_iff, messageByte_eq_some_iff, ih, Nat.succ_pos,
      forall_const, Nat.add_succ_sub_one, ← hcover, List.range'_succ, List.map_cons]
    constructor
    · rintro ⟨b, rest, ⟨hfirst, rfl⟩, ⟨hrest, rfl⟩, rfl⟩
      exact ⟨⟨hfirst, hrest⟩, rfl⟩
    · rintro ⟨⟨hfirst, hrest⟩, rfl⟩
      exact ⟨_, _, ⟨hfirst, rfl⟩, ⟨hrest, rfl⟩, rfl⟩

/-- Settles O51: by `messageBytes_eq_some_iff`, from byte 0 on. -/
theorem decodableExactlyFromSampleCount : Obligations.DecodableExactlyFromSampleCount := by
  intro samples stride count hpos
  simp [Option.isSome_iff_exists, messageBytes_eq_some_iff, hpos]

/-- Bytes that can be decoded lie behind the marker and the start bit, at least one sample each and
eight for the last. -/
theorem add_le_length_of_messageBytes {samples bs : List Byte} {stride k count : Nat}
    (hstride : 0 < stride) (hcount : 0 < count)
    (h : messageBytes samples stride k count = some bs) : k + count + 9 ≤ samples.length := by
  obtain ⟨hlast, -⟩ := messageBytes_eq_some_iff.1 h
  have hsymbols : k + count - 1 ≤ (k + count - 1) * stride := Nat.le_mul_of_pos_right _ hstride
  have hlast := hlast hcount
  unfold pDataBase at hlast
  omega

/-! ## The stages of a whole message -/

theorem nine_le_strideOf (gen : Bit) : 9 ≤ (strideOf gen).toNat := by
  unfold strideOf
  split_ifs <;> decide

/-- A decoded header is its four spelled bytes. -/
theorem header_eq_of_messageBytes {samples header : List Byte} {stride : Nat}
    (h : messageBytes samples stride 0 hdrLen = some header) :
    header = [0, 1, 2, 3].map (spelledByte samples stride) :=
  (messageBytes_eq_some_iff.1 h).2

/-- `PLEN` of a decoded header (R79). -/
theorem be16At_header {samples header : List Byte} {stride : Nat}
    (h : messageBytes samples stride 0 hdrLen = some header) :
    be16At header 2 = spelledByte samples stride 2 ++ spelledByte samples stride 3 := by
  rw [header_eq_of_messageBytes h]
  rfl

/-- The message-level function is header, body and the stages after the frame parser: where both can
be decoded, the message passes the minimum length and the length check (R116). -/
theorem decodeMessage_eq_bind (token : Token) (samples : List Byte) (cfg : FilterConfig) :
    decodeMessage token samples cfg =
      (messageBytes samples (strideOf (sampleBit samples 0)).toNat 0 hdrLen).bind fun header =>
        (messageBytes samples (strideOf (sampleBit samples 0)).toNat hdrLen
          (be16At header 2).toNat).bind fun body =>
            acceptDecoded token (header ++ body) (header.getD 1 0) (be16At header 2) cfg := by
  unfold decodeMessage
  have hstride : 0 < (strideOf (sampleBit samples 0)).toNat :=
    Nat.zero_lt_of_lt (nine_le_strideOf _)
  dsimp only
  generalize (strideOf (sampleBit samples 0)).toNat = stride at hstride ⊢
  cases hheader : messageBytes samples stride 0 hdrLen with
  | none => simp
  | some header =>
    have hmin : hdrLen + 9 ≤ samples.length := by
      simpa using add_le_length_of_messageBytes hstride (by decide) hheader
    rw [if_neg (by unfold minSamples; omega)]
    simp only [Option.bind_some]
    cases hbody : messageBytes samples stride hdrLen (be16At header 2).toNat with
    | none => simp
    | some body =>
      have hlen : samples.length > (be16At header 2).toNat := by
        obtain hzero | hpos := Nat.eq_zero_or_pos (be16At header 2).toNat
        · omega
        · have := add_le_length_of_messageBytes hstride hpos hbody
          omega
      rw [if_neg (not_not.2 hlen)]
      rfl

/-! ## Marker and data bits are all that matters -/

/-- Two messages of one length that agree on the data bits of consecutive bytes give the same
bytes. -/
theorem messageBytes_eq_of_dataBits {samples samples' : List Byte} {stride k count : Nat}
    (hlen : samples.length = samples'.length)
    (hbits : ∀ a j, a < k + count → j < 8 → sampleBit samples (pDataBase + a * stride + j) =
      sampleBit samples' (pDataBase + a * stride + j)) :
    messageBytes samples stride k count = messageBytes samples' stride k count :=
  messageBytes_congr fun a _ ha =>
    messageByte_congr (by rw [hlen]) fun j hj => hbits a j ha hj

/-- Settles O55: the header agrees, hence the length in it, hence the body of that length. -/
theorem onlyMarkerAndDataBitsMatter : Obligations.OnlyMarkerAndDataBitsMatter := by
  intro token samples samples' cfg stride byte plen hlen hmarker hbits
  have hheader : messageBytes samples stride 0 hdrLen = messageBytes samples' stride 0 hdrLen :=
    messageBytes_eq_of_dataBits hlen fun a j ha =>
      hbits a j (ha.trans_le (by simp [hdrLen]))
  have hbody : messageBytes samples stride hdrLen plen.toNat =
      messageBytes samples' stride hdrLen plen.toNat :=
    messageBytes_eq_of_dataBits hlen hbits
  rw [decodeMessage_eq_bind, decodeMessage_eq_bind, ← hmarker, ← hheader]
  refine Option.bind_congr fun header hdec => ?_
  rw [be16At_header hdec]
  exact congrArg (Option.bind · _) hbody

/-! ## The expansion -/

theorem symbolSamples_length {stride : Nat} (h : 9 ≤ stride) (b : Byte) :
    (symbolSamples stride b).length = stride := by
  simp only [symbolSamples, List.length_append, List.length_map, List.length_cons, List.length_nil,
    List.length_replicate]
  omega

/-- Dropping whole symbols leaves the symbols of the other bytes. -/
theorem drop_flatMap_symbolSamples {stride : Nat} (h : 9 ≤ stride) (k : Nat) (bytes : List Byte) :
    (bytes.flatMap (symbolSamples stride)).drop (k * stride) =
      (bytes.drop k).flatMap (symbolSamples stride) := by
  induction k generalizing bytes with
  | zero => simp
  | succ k ih =>
    cases bytes with
    | nil => simp
    | cons b rest =>
      rw [List.flatMap_cons, Nat.succ_mul, Nat.add_comm, ← List.drop_drop,
        List.drop_left' (symbolSamples_length h b), ih, List.drop_succ_cons]

theorem sampleBit_drop (samples : List Byte) (c i : Nat) :
    sampleBit (samples.drop c) i = sampleBit samples (c + i) := by
  simp [sampleBit, List.getD_eq_getElem?_getD, List.getElem?_drop]

theorem sumOfBits_drop (samples : List Byte) (c : Nat) :
    sumOfBits (samples.drop c) 0 = sumOfBits samples c := by
  simp [sumOfBits, sampleBit_drop]

/-- A data sample of a symbol stands for its bit of the byte (R92). -/
theorem bitOf_dataSample (b : Byte) (j : Nat) :
    (bitOf ((b >>> j) &&& 1)).toNat = b.toNat / 2 ^ j % 2 := by
  have hval : ((b >>> j) &&& 1).toNat = b.toNat / 2 ^ j % 2 := by
    simp [Nat.shiftRight_eq_div_pow, Nat.and_one_is_mod]
  unfold bitOf
  split_ifs with h0
  · rw [← hval, h0]
    rfl
  · have hne : ((b >>> j) &&& 1).toNat ≠ 0 := fun h => h0 (BitVec.eq_of_toNat_eq h)
    change 1 = _
    omega

/-- The data bits at the head of a symbol spell its byte. -/
theorem sumOfBits_symbolSamples (stride : Nat) (b : Byte) (rest : List Byte) :
    sumOfBits (symbolSamples stride b ++ rest) 0 = b.toNat := by
  have hbits : sumOfBits (symbolSamples stride b ++ rest) 0 =
      ([0, 1, 2, 3, 4, 5, 6, 7].map fun j => (bitOf ((b >>> j) &&& 1)).toNat <<< j).sum := rfl
  have hlt := b.isLt
  simp only [hbits, bitOf_dataSample, Nat.shiftLeft_eq, List.map_cons, List.map_nil, List.sum_cons,
    List.sum_nil]
  omega

/-- Without a byte of its own, or with one that stands for the generation, the marker is `GEN`. -/
theorem sampleBit_expandFull_zero {m : Msg} (h : ∀ b, m.raw0 = some b → bitOf b = m.gen) :
    sampleBit m.expandFull 0 = m.gen := by
  change bitOf (m.raw0.getD (if m.gen = 0 then 0 else 1)) = m.gen
  cases hraw : m.raw0 with
  | some b => exact h b hraw
  | none =>
    generalize m.gen = gen
    revert gen
    decide

/-- From the first data bit of byte `k` on, the expansion is the symbols of the bytes from `k` on. -/
theorem drop_expandFull (m : Msg) (k : Nat) :
    m.expandFull.drop (pDataBase + k * (strideOf m.gen).toNat) =
      (m.bytes.drop k).flatMap (symbolSamples (strideOf m.gen).toNat) := by
  rw [← drop_flatMap_symbolSamples (nine_le_strideOf _), ← List.drop_drop]
  rfl

theorem expandFull_length (m : Msg) :
    m.expandFull.length = pDataBase + m.bytes.length * (strideOf m.gen).toNat := by
  have hsymbols : (m.bytes.flatMap (symbolSamples (strideOf m.gen).toNat)).length =
      m.bytes.length * (strideOf m.gen).toNat := by
    simp [List.length_flatMap, symbolSamples_length (nine_le_strideOf _)]
  rw [Msg.expandFull, List.length_cons, List.length_append, hsymbols, List.length_replicate,
    pDataBase]
  omega

/-- Every symbol of the expansion spells its byte. -/
theorem spelledByte_expandFull (m : Msg) {k : Nat} (hk : k < m.bytes.length) :
    spelledByte m.expandFull (strideOf m.gen).toNat k = m.bytes[k] := by
  rw [spelledByte, ← sumOfBits_drop, drop_expandFull, List.drop_eq_getElem_cons hk,
    List.flatMap_cons, sumOfBits_symbolSamples, BitVec.ofNat_toNat, BitVec.setWidth_eq]

/-- The round trip for any stretch of the bytes. -/
theorem messageBytes_expandFull (m : Msg) {k count : Nat} (h : k + count ≤ m.bytes.length) :
    messageBytes m.expandFull (strideOf m.gen).toNat k count =
      some ((m.bytes.drop k).take count) := by
  refine messageBytes_eq_some_iff.2 ⟨fun hcount => ?_, ?_⟩
  · have hwhole : (k + count - 1 + 1) * (strideOf m.gen).toNat ≤
        m.bytes.length * (strideOf m.gen).toNat := Nat.mul_le_mul_right _ (by omega)
    have hstride := nine_le_strideOf m.gen
    rw [Nat.succ_mul] at hwhole
    rw [expandFull_length]
    omega
  · refine List.ext_getElem (by simp; omega) fun i hi hi' => ?_
    simp only [List.length_map, List.length_range'] at hi'
    simp [spelledByte_expandFull m (show k + i < m.bytes.length by omega)]

/-- Settles O58: each stage of `decodeMessage_eq_bind` gets back its stretch of the bytes. -/
theorem expansionRoundTrip : Obligations.ExpansionRoundTrip := by
  intro m hcut hraw
  have hexpand : m.expand = m.expandFull := by rw [Msg.expand, hcut]
  rw [hexpand]
  refine ⟨by simpa using messageBytes_expandFull m (k := 0) (Nat.zero_add _).le, fun cfg hlen => ?_⟩
  have hheader : messageBytes m.expandFull (strideOf m.gen).toNat 0 hdrLen =
      some (m.bytes.take hdrLen) :=
    messageBytes_expandFull m (k := 0) (by unfold hdrLen; omega)
  have hbody : messageBytes m.expandFull (strideOf m.gen).toNat hdrLen (be16At m.bytes 2).toNat =
      some (m.bytes.drop hdrLen) := by
    rw [messageBytes_expandFull m (k := hdrLen) hlen.ge,
      List.take_of_length_le (by simp [hlen, hdrLen])]
  have hplen : be16At (m.bytes.take hdrLen) 2 = be16At m.bytes 2 := by
    simp [be16At, hdrLen]
  have hptype : (m.bytes.take hdrLen).getD 1 0 = m.bytes.getD 1 0 := by
    simp [hdrLen]
  rw [decodeMessage_eq_bind, sampleBit_expandFull_zero hraw, hheader, Option.bind_some, hplen,
    hbody, Option.bind_some, List.take_append_drop, hptype]

end Sys2Proof.Machine
end

section
/-!
PROOF. Selecting an operation (spec/30_encoding.md R84, R90, R130): the reserved phases select nothing
and are never entered, and in EXTRACT the rows are tried in order on `PTYPE ++ PLEN`.
-/

namespace Sys2Proof

/-! ## Reserved phases -/

/-- The phases that the block enters are those up to EMIT (R88, R90). -/
theorem le_phEmit_iff (p : Phase) : p ≤ Machine.phEmit ↔ p ≠ 0xE ∧ p ≠ 0xF := by
  revert p
  decide

theorem opTable_phase_le {r : OpRow} (hr : r ∈ opTable) : keyPhase r.value ≤ Machine.phEmit := by
  revert r
  decide

theorem decodeKey_reserved {key : Key} (h : ¬ keyPhase key ≤ Machine.phEmit) :
    decodeKey key = .error (.reservedPhase (keyPhase key)) := by
  have hnone : opTable.find? (fun r => r.selects key) = none :=
    List.find?_eq_none.2 fun r hr hs => h (keyPhase_of_selects hr hs ▸ opTable_phase_le hr)
  rw [decodeKey, hnone]

namespace Machine

theorem takeDrop_phase_le (c : DropCause) (s : State) : (takeDrop c s).phase ≤ phEmit :=
  (by decide : phIdle ≤ phEmit)

theorem phaseAfterSample_le (last : Bool) : phaseAfterSample last ≤ phEmit := by
  cases last <;> decide

theorem ite_phase_le {c : Prop} [Decidable c] {p q : Phase} (hp : p ≤ phEmit) (hq : q ≤ phEmit) :
    (if c then p else q) ≤ phEmit := by
  split_ifs
  · exact hp
  · exact hq

/-- Every operation leaves `PHASE` as it was or enters a phase up to EMIT. -/
theorem exec_phase {i : Instr} {s t : State} (h : exec i s = .next t) :
    t.phase = s.phase ∨ t.phase ≤ phEmit := by
  cases i with
  | captureFirst =>
    obtain ⟨-, rfl⟩ | ⟨-, rfl⟩ := execCaptureFirst_next_inv h
    · exact .inr (phaseAfterSample_le _)
    · exact .inl rfl
  | capture =>
    obtain ⟨-, -, rfl⟩ | ⟨-, -, rfl⟩ | ⟨-, rfl⟩ := execCapture_next_inv h
    · exact .inr (phaseAfterSample_le _)
    · exact .inr (phaseAfterSample_le _)
    · exact .inl rfl
  | guard =>
    obtain ⟨-, rfl⟩ | ⟨-, rfl⟩ := execGuard_next_inv h
    · exact .inr (takeDrop_phase_le _ _)
    · exact .inr (by decide : phGen ≤ phEmit)
  | genG4 | genG5 =>
    cases h
    exact .inr (by decide : phHdr ≤ phEmit)
  | demapHdr =>
    obtain ⟨-, rfl⟩ | ⟨-, -, -, rfl⟩ := execDemapHdr_next_inv h
    · exact .inr (takeDrop_phase_le _ _)
    · exact .inr (ite_phase_le (by decide) (by decide))
  | hdrParse =>
    cases h
    exact .inr (by decide : phLchk ≤ phEmit)
  | lchk =>
    obtain ⟨-, rfl⟩ | ⟨-, rfl⟩ := execLchk_next_inv h
    · exact .inr (takeDrop_phase_le _ _)
    · exact .inr (ite_phase_le (by decide) (by decide))
  | demapPay =>
    obtain ⟨-, rfl⟩ | ⟨-, -, -, rfl⟩ := execDemapPay_next_inv h
    · exact .inr (takeDrop_phase_le _ _)
    · exact .inr (ite_phase_le (by decide) (by decide))
  | crcInit =>
    obtain ⟨-, rfl⟩ | ⟨-, rfl⟩ := execCrcInit_next_inv h
    · exact .inr (takeDrop_phase_le _ _)
    · exact .inr (ite_phase_le (by decide) (by decide))
  | crcByte =>
    obtain ⟨-, rfl⟩ := execCrcByte_next_inv h
    exact .inr (ite_phase_le (by decide) (by decide))
  | crcCmp =>
    cases h
    exact .inr (by decide : phExtract ≤ phEmit)
  | extractL55 =>
    obtain ⟨-, rfl⟩ | ⟨-, -, rfl⟩ | ⟨-, rfl⟩ := execExtractL55_next_inv h
    · exact .inr (by decide : phFilter ≤ phEmit)
    · exact .inr (takeDrop_phase_le _ _)
    · exact .inr (takeDrop_phase_le _ _)
  | extractLd5 =>
    obtain ⟨-, rfl⟩ | ⟨-, rfl⟩ := execExtractLd5_next_inv h
    · exact .inr (by decide : phFilter ≤ phEmit)
    · exact .inr (takeDrop_phase_le _ _)
  | filter =>
    obtain ⟨-, rfl⟩ | ⟨-, rfl⟩ := execFilter_next_inv h
    · exact .inr (by decide : phEmit ≤ phEmit)
    · exact .inr (takeDrop_phase_le _ _)
  | emitByte =>
    obtain ⟨-, -, -, rfl⟩ | ⟨-, -, -, rfl⟩ | ⟨-, rfl⟩ := execEmitByte_next_inv h
    · exact .inr (by decide : phIdle ≤ phEmit)
    · exact .inr (by decide : phEmit ≤ phEmit)
    · exact .inl rfl
  | reset =>
    cases h
    exact .inr (by decide : phIdle ≤ phEmit)
  | extractReject | drop cause =>
    cases h
    exact .inr (takeDrop_phase_le _ _)

/-- A selected operation is RESET or has the phase of one of the table's rows. -/
theorem phase_le_of_decode {s : State} {i : Instr} (h : decode s.selector = .ok i) :
    i = .reset ∨ s.phase ≤ phEmit := by
  obtain ⟨-, hi⟩ | ⟨-, r, hr, -, hs⟩ := decode_ok_inv h
  · exact .inl hi
  · have hphase : s.phase = keyPhase r.value :=
      (keyPhase_dkey s).symm.trans (keyPhase_of_selects hr hs)
    exact .inr (hphase.trans_le (opTable_phase_le hr))

/-- Settles O7: an operation that leaves `PHASE` as it was has been selected by a row, and no row has a
reserved phase. -/
theorem reservedPhaseNeverEnteredAndFaults : Obligations.ReservedPhaseNeverEnteredAndFaults := by
  refine ⟨fun s t hstep => (le_phEmit_iff _).1 ?_, fun s hrst hphase => ?_⟩
  · obtain ⟨i, u, hdec, hexec, rfl⟩ := step_next_inv hstep
    obtain rfl | hle := phase_le_of_decode hdec
    · cases hexec
      exact (by decide : phIdle ≤ phEmit)
    · obtain hkept | hentered := exec_phase hexec
      · exact hkept.trans_le hle
      · exact hentered
  · have hreserved : ¬ keyPhase s.dkey ≤ phEmit := by
      rw [keyPhase_dkey, le_phEmit_iff]
      tauto
    have hdec : decode s.selector = .error (.reservedPhase s.phase) := by
      rw [decode, State.selector, hrst, ← keyPhase_dkey s]
      exact decodeKey_reserved hreserved
    rw [step, hdec]
    rfl

end Machine

/-! ## The rows of EXTRACT -/

/-- No row before those of EXTRACT selects a key of phase EXTRACT. -/
theorem find?_extract (key : Key) (h : keyPhase key = Machine.phExtract) :
    opTable.find? (fun r => r.selects key) =
      (opTable.drop 12).find? (fun r => r.selects key) := by
  have hbefore : ∀ r ∈ opTable.take 12, keyPhase r.value ≠ Machine.phExtract := by decide
  have hnone : (opTable.take 12).find? (fun r => r.selects key) = none :=
    List.find?_eq_none.2 fun r hr hs =>
      hbefore r hr ((keyPhase_of_selects (List.mem_of_mem_take hr) hs).symm.trans h)
  rw [← List.take_append_drop 12 opTable, List.find?_append, hnone]
  rfl

/-- A row of EXTRACT compares the type and the length, each under its part of the mask. -/
theorem OpRow.selects_extract {r : OpRow} {ptype tm tv : Byte} {plen lm lv : Half}
    (hm : r.mask = 0xF#4 ++ (tm ++ lm : BitVec (8 + 16)))
    (hv : r.value = Machine.phExtract ++ (tv ++ lv : BitVec (8 + 16))) :
    r.selects (Machine.phExtract ++ (ptype ++ plen : BitVec (8 + 16))) = true ↔
      ptype &&& tm = tv ∧ plen &&& lm = lv := by
  rw [OpRow.selects_append hm hv, BitVec.and_append, Bool.and_eq_true, beq_iff_eq, beq_iff_eq,
    append_eq_append_iff]
  exact and_iff_right rfl

/-- A key of phase EXTRACT selects by type and length, in the table's order (R84, R130). -/
theorem decodeKey_extract (ptype : Byte) (plen : Half) :
    decodeKey (Machine.phExtract ++ (ptype ++ plen : BitVec (8 + 16))) =
      .ok (if ptype = 0x55 ∧ plen = 0x0023 then .extractL55
        else if ptype = 0xD5 then .extractLd5 else .extractReject) := by
  have hL55 := OpRow.selects_extract (r := ⟨.extractL55, 0xB550023, 0xFFFFFFF⟩) (ptype := ptype)
    (plen := plen) (tm := BitVec.allOnes 8) (tv := 0x55) (lm := BitVec.allOnes 16) (lv := 0x0023)
    rfl rfl
  have hLd5 := OpRow.selects_extract (r := ⟨.extractLd5, 0xBD50000, 0xFFF0000⟩) (ptype := ptype)
    (plen := plen) (tm := BitVec.allOnes 8) (tv := 0xD5) (lm := 0#16) (lv := 0#16) rfl rfl
  have hReject := OpRow.selects_extract (r := ⟨.extractReject, 0xB000000, 0xF000000⟩)
    (ptype := ptype) (plen := plen) (tm := 0#8) (tv := 0#8) (lm := 0#16) (lv := 0#16) rfl rfl
  rw [BitVec.and_allOnes, BitVec.and_allOnes] at hL55
  rw [BitVec.and_allOnes, BitVec.and_zero, and_iff_left rfl] at hLd5
  rw [BitVec.and_zero, BitVec.and_zero] at hReject
  rw [decodeKey, find?_extract _ (keyPhase_append _ _)]
  simp only [opTable, List.drop_succ_cons, List.drop_zero, List.find?_cons]
  split_ifs with h55 hd5
  · simp only [hL55.2 h55]
  · simp only [Bool.eq_false_iff.2 (mt hL55.1 h55), hLd5.2 hd5]
  · simp only [Bool.eq_false_iff.2 (mt hL55.1 h55), Bool.eq_false_iff.2 (mt hLd5.1 hd5),
      hReject.2 ⟨rfl, rfl⟩]

namespace Machine

/-- Settles O6: by `decodeKey_extract` on the key of a state in EXTRACT. -/
theorem extractDispatchesOnTypeAndLength : Obligations.ExtractDispatchesOnTypeAndLength := by
  intro s hrst hphase
  have hkey : s.dkey = phExtract ++ (s.ptype ++ s.plen : BitVec (8 + 16)) := by
    simp [State.dkey, State.keyData, hphase, phExtract, phGen]
  have hdec := decodeKey_extract s.ptype s.plen
  rw [step, decode, State.selector, hrst, hkey]
  simp only [Bool.false_eq_true, if_false, hdec]
  split_ifs <;> rfl

end Machine

end Sys2Proof
end

section
/-!
PROOF. Choosing the generation (spec/40_demapper.md R100, R101): the two rows of GEN divide its keys by
`RAW[0]`, and each operation sets the stride of its generation.
-/

namespace Sys2Proof

/-- A key of phase GEN selects by the marker bit: the row of GEN_G4 takes 0, that of GEN_G5 takes 1
(R89). -/
theorem decodeKey_gen (marker : Bit) :
    decodeKey (Machine.phGen ++ marker.setWidth 24) =
      .ok (if marker = 0 then .genG4 else .genG5) := by
  obtain rfl | rfl := BitVec.eq_zero_or_eq_one marker
  · rfl
  · rfl

namespace Machine

/-- In GEN the key holds `RAW[0]` (R89). -/
theorem dkey_gen {s : State} (hphase : s.phase = phGen) :
    s.dkey = phGen ++ (s.rawCell 0).setWidth 24 := by
  rw [State.dkey, State.keyData, if_pos hphase, hphase]

/-- Settles O13: the effects are the operations' own meanings, and the selection is `decodeKey_gen` on
the key of a state in GEN. -/
theorem generationSetsStride : Obligations.GenerationSetsStride := by
  refine fun s => ⟨rfl, rfl, fun hrst hphase => ?_⟩
  have hdec : decode s.selector = .ok (if s.rawCell 0 = 0 then .genG4 else .genG5) := by
    rw [decode, State.selector, hrst, dkey_gen hphase]
    exact decodeKey_gen _
  rw [step, hdec]
  exact congrArg retire (apply_ite (exec · s) ..)

end Machine

end Sys2Proof
end

section
/-!
PROOF. The frame parser (spec/41_framer.md R110 to R116): the minimum-length guard, the header's fields
and the coarse length check, each with its outcome in either case.
-/

namespace Sys2Proof.Machine

/-! ## The length check at message level -/

/-- Settles O53: a body that can be decoded needs more samples than bytes
(`add_le_length_of_messageBytes`), so the samples the check finds missing are missing for it too. -/
theorem lengthCheckNeverChangesOutput : Obligations.LengthCheckNeverChangesOutput := by
  intro samples gen len hlen hshort
  refine Option.eq_none_iff_forall_ne_some.2 fun body hbody => ?_
  have hstride : 0 < (strideOf gen).toNat := Nat.zero_lt_of_lt (nine_le_strideOf gen)
  have hneeded : 4 + len + 9 ≤ samples.length := add_le_length_of_messageBytes hstride hlen hbody
  omega

/-! ## GUARD, HDR_PARSE and LCHK, branch by branch -/

theorem execGuard_of_short {s : State} (h : s.n < minSamples) :
    execGuard s = .next (takeDrop .short s) := if_pos h

theorem execGuard_of_enough {s : State} (h : minSamples ≤ s.n) :
    execGuard s = .next (s.toPhase phGen) := if_neg (not_lt.2 h)

theorem execLchk_of_le {s : State} (h : s.n ≤ s.plen.toNat) :
    execLchk s = .next (takeDrop .len s) := if_pos (not_lt.2 h)

theorem execLchk_of_lt {s : State} (h : s.plen.toNat < s.n) :
    execLchk s = .next (s.toPhase (if s.plen = 0 then phCrci else phPay)) :=
  if_neg (not_not.2 h)

/-- The shortest message that GUARD passes has no sample for the last data bit of any byte, at any
cursor. -/
theorem execDemapHdr_of_minSamples {s : State} (h : s.n = minSamples) :
    execDemapHdr s = .next (takeDrop .rawOor s) := by
  have hcursor : minSamples ≤ s.bitCursor + 7 :=
    Nat.add_le_add_right (Nat.le_add_right pDataBase _) 7
  rw [execDemapHdr_eq]
  exact demapOutcome_drop _ (h.trans_le hcursor)

/-- The message-level function makes GUARD's check first (R158). -/
theorem decodeMessage_of_short (token : Token) {samples : List Byte} (cfg : FilterConfig)
    (h : samples.length < minSamples) : decodeMessage token samples cfg = none := if_pos h

/-- Settles O12: GUARD on both sides of `MIN_SAMPLES`, the message-level check, and DEMAP_HDR at
`MIN_SAMPLES`. -/
theorem guardDropsShortMessages : Obligations.GuardDropsShortMessages :=
  ⟨runsIn_of_decodeKey (by decide) (by decide) rfl,
    fun token _ cfg h => decodeMessage_of_short token cfg h,
    fun _ => ⟨execGuard_of_short, execGuard_of_enough, execDemapHdr_of_minSamples⟩⟩

/-- Settles O15: the phase selects HDR_PARSE, whose read of `PLEN` puts `DEC[2]` high
(`State.dec16`). -/
theorem headerParseReadsTypeAndLength : Obligations.HeaderParseReadsTypeAndLength :=
  ⟨runsIn_of_decodeKey (by decide) (by decide) rfl, fun _ => rfl⟩

/-- Settles O16: `execLchk_of_le` drops; `execLchk_of_lt` goes on, past the body if it is empty. -/
theorem lengthCheckIsCoarse : Obligations.LengthCheckIsCoarse := by
  refine ⟨runsIn_of_decodeKey (by decide) (by decide) rfl, fun s =>
    ⟨execLchk_of_le, fun hlt hzero => ?_, fun hlt hbody => ?_⟩⟩
  · exact (execLchk_of_lt hlt).trans (by rw [if_pos hzero]; rfl)
  · exact (execLchk_of_lt hlt).trans (by rw [if_neg hbody]; rfl)

end Sys2Proof.Machine
end

section
/-!
PROOF. The CRC operations, one by one (spec/42_crc.md R120 to R123): the branches of each, and the
bounds that keep CRC_BYTE inside the CRC range.
-/

namespace Sys2Proof.Machine

/-! ## The operations, branch by branch -/

theorem crcRounds_eq_iterate (n : Nat) (crc : Half) : crcRounds n crc = crcRound^[n] crc := by
  induction n generalizing crc with
  | zero => rfl
  | succ n ih => exact ih (crcRound crc)

theorem execCrcInit_of_lt {s : State} (h : s.plen.toNat < 2) :
    execCrcInit s = .next (takeDrop .crcRange s) := if_pos h

theorem execCrcInit_of_le {s : State} (h : 2 ≤ s.plen.toNat) :
    execCrcInit s = .next { s with crc := s.cfg.crcInit, k := hdrLen,
                                   phase := if s.plen.toNat = 2 then phCrcc else phCrcb } :=
  if_neg (not_lt.2 h)

theorem execCrcByte_of_lt {s : State} (h : s.k < decCap) :
    execCrcByte s =
      .next { s with crc := foldCrcByte s.crc (s.decCell s.k), k := s.k + 1,
                     phase := if s.k + 1 = s.plen.toNat + 2 then phCrcc else phCrcb } :=
  if_neg (not_le.2 h)

theorem flag_beq {w : Nat} (a b : BitVec w) : flag (a == b) = if a = b then 1 else 0 := by
  simp [flag]

/-- The CRC range ends before `DEC` does, for every length. -/
theorem lt_decCap_of_lt_plen_add_two {k : Nat} {plen : Half} (h : k < plen.toNat + 2) :
    k < decCap := by
  have := plen.isLt
  simp only [decCap, hdrLen, lMax]
  omega

theorem Inv.crcIndex {s : State} (h : Inv s) (hp : s.phase = phCrcb) :
    hdrLen ≤ s.k ∧ s.k < s.plen.toNat + 2 := by
  obtain ⟨hlow, hhigh, -⟩ := h.message.crcRunning hp
  exact ⟨hlow, hhigh⟩

/-! ## Selection -/

theorem runsIn_crcInit : runsIn .crcInit phCrci := runsIn_of_decodeKey (by decide) (by decide) rfl

theorem runsIn_crcByte : runsIn .crcByte phCrcb := runsIn_of_decodeKey (by decide) (by decide) rfl

theorem runsIn_crcCmp : runsIn .crcCmp phCrcc := runsIn_of_decodeKey (by decide) (by decide) rfl

/-! ## The obligations -/

/-- Settles O17: `execCrcInit_of_lt` drops; `execCrcInit_of_le` seeds, and an empty range goes
straight to CRC_CMP. -/
theorem crcInitSeedsCrc : Obligations.CrcInitSeedsCrc := by
  refine ⟨runsIn_crcInit, fun s => ⟨execCrcInit_of_lt, fun hempty => ?_, fun hbytes => ?_⟩⟩
  · exact (execCrcInit_of_le hempty.ge).trans (by rw [if_pos hempty]; rfl)
  · exact (execCrcInit_of_le hbytes.le).trans (by rw [if_neg hbytes.ne']; rfl)

/-- Settles O18: the bounds are the invariant's, and the fold is `crcRound` iterated. -/
theorem crcByteFoldsOneByte : Obligations.CrcByteFoldsOneByte := by
  refine ⟨runsIn_crcByte, fun s hinv hp => ?_, fun _ => rfl, fun s hk => ?_⟩
  · obtain ⟨hlow, hhigh⟩ := hinv.crcIndex hp
    exact ⟨hlow, Nat.le_of_lt_succ hhigh, lt_decCap_of_lt_plen_add_two hhigh⟩
  · rw [← crcRounds_eq_iterate]
    exact execCrcByte_of_lt hk

/-- Settles O19: `MemRead(DEC, i, 2)` is big-endian by `State.dec16`, and CRC_CMP has no drop. -/
theorem crcCompareSetsMatchFlag : Obligations.CrcCompareSetsMatchFlag := by
  refine ⟨runsIn_crcCmp, fun s => ?_⟩
  have hflag := flag_beq s.crc (s.dec16 (s.plen.toNat + 2))
  rw [exec, execCrcCmp, hflag]
  rfl

end Sys2Proof.Machine
end

section
/-!
PROOF. The CRC has no carries (spec/42_crc.md R124): one round is XOR-linear, and so are the fold of a
byte and the fold of a list.
-/

namespace Sys2Proof.Machine

/-- XOR of two pairs can be taken pair by pair or side by side. -/
theorem xor_xor_xor_comm {w : Nat} (a b c d : BitVec w) :
    (a ^^^ b) ^^^ (c ^^^ d) = (a ^^^ c) ^^^ (b ^^^ d) := by
  ac_rfl

/-- The polynomial enters under the top bit: not at all, once, or twice, and then it cancels. -/
theorem crcRound_xor (a b : Half) : crcRound (a ^^^ b) = crcRound a ^^^ crcRound b := by
  have hcancel : (a <<< 1 ^^^ crcPoly) ^^^ (b <<< 1 ^^^ crcPoly) = a <<< 1 ^^^ b <<< 1 := by
    rw [xor_xor_xor_comm, BitVec.xor_self, BitVec.xor_zero]
  have hright : (a <<< 1 ^^^ b <<< 1) ^^^ crcPoly = (a <<< 1 ^^^ crcPoly) ^^^ b <<< 1 := by
    ac_rfl
  unfold crcRound
  rw [BitVec.getLsbD_xor, BitVec.shiftLeft_xor_distrib]
  cases a.getLsbD 15 <;> cases b.getLsbD 15
  case false.false => rfl
  case false.true => exact BitVec.xor_assoc ..
  case true.false => exact hright
  case true.true => exact hcancel.symm

theorem crcRounds_xor (n : Nat) (a b : Half) :
    crcRounds n (a ^^^ b) = crcRounds n a ^^^ crcRounds n b := by
  induction n generalizing a b with
  | zero => rfl
  | succ n ih => simp only [crcRounds, crcRound_xor, ih]

theorem foldCrcByte_xor (crc crc' : Half) (b b' : Byte) :
    foldCrcByte (crc ^^^ crc') (b ^^^ b') = foldCrcByte crc b ^^^ foldCrcByte crc' b' := by
  unfold foldCrcByte
  rw [BitVec.setWidth_xor, BitVec.shiftLeft_xor_distrib, xor_xor_xor_comm, crcRounds_xor]

/-- The first byte changes the seed for the rest. -/
theorem crc16_cons (init : Half) (b : Byte) (bs : List Byte) :
    crc16 init (b :: bs) = crc16 (foldCrcByte init b) bs := rfl

/-- Settles O45: byte by byte, by `foldCrcByte_xor`. -/
theorem crcIsXorLinear : Obligations.CrcIsXorLinear := by
  intro init init' bytes
  induction bytes generalizing init init' with
  | nil =>
    intro bytes' hlen
    obtain rfl : bytes' = [] := List.length_eq_zero_iff.1 hlen.symm
    simp only [List.zipWith_nil_left, crc16_nil]
  | cons b bytes ih =>
    rintro (_ | ⟨b', bytes'⟩) hlen
    · cases hlen
    · rw [List.zipWith_cons_cons, crc16_cons, foldCrcByte_xor, crc16_cons, crc16_cons]
      exact ih _ _ bytes' (Nat.succ.inj hlen)

end Sys2Proof.Machine
end

section
/-!
PROOF. The CRC stage as a whole (spec/42_crc.md R125). From CRC_INIT on the state keeps one form,
`CrcFolded`: after `j` CRC_BYTEs the register is `crc16` of the first `j` bytes of the CRC range.
CRC_INIT enters that form, each CRC_BYTE takes it one byte on, and CRC_CMP ends it.
-/

namespace Sys2Proof.Machine

/-! ## Steps with no reset to come -/

theorem noReset_iff (s : State) :
    s.noReset ↔ ∀ p ∈ s.pins :: s.schedule, p.rst = false :=
  (List.forall_mem_cons (p := fun p : Pins => p.rst = false)).symm

theorem step_noReset {s t : State} (hs : s.noReset) (h : step s = .next t) : t.noReset :=
  (noReset_iff t).2 fun p hp => (noReset_iff s).1 hs p (step_pins_subset h hp)

theorem runsIn.step_eq {i : Instr} {p : Phase} (hi : runsIn i p) {s u : State} (hs : s.noReset)
    (hp : s.phase = p) (hu : exec i s = .next u) : step s = .next u.advance := by
  rw [hi s hs.1 hp, hu]
  rfl

/-! ## The form the stage keeps -/

/-- `t` differs from `s` at most in the registers of the CRC stage and in the model's pin fields. -/
def SameButCrcStage (s t : State) : Prop :=
  { t with phase := s.phase, crc := s.crc, crcMatch := s.crcMatch, k := s.k, pins := s.pins,
           schedule := s.schedule, edges := s.edges } = s

theorem SameButCrcStage.plen {s t : State} (h : SameButCrcStage s t) : t.plen = s.plen :=
  (congrArg State.plen h :)

theorem SameButCrcStage.decCell {s t : State} (h : SameButCrcStage s t) (i : Nat) :
    t.decCell i = s.decCell i :=
  decCell_congr (congrArg State.dec h) i

theorem SameButCrcStage.dec16 {s t : State} (h : SameButCrcStage s t) (i : Nat) :
    t.dec16 i = s.dec16 i :=
  dec16_congr fun j _ => h.decCell (i + j)

/-- `t` is the stage begun in `s` after CRC_INIT and `j` CRC_BYTEs. -/
structure CrcFolded (s : State) (j : Nat) (t : State) : Prop where
  noReset : t.noReset
  phase   : t.phase = if j + 2 = s.plen.toNat then phCrcc else phCrcb
  k       : t.k = hdrLen + j
  crc     : t.crc = crc16 s.cfg.crcInit (s.decBytes hdrLen j)
  kept    : SameButCrcStage s t

theorem decBytes_succ (s : State) (start count : Nat) :
    s.decBytes start (count + 1) = s.decBytes start count ++ [s.decCell (start + count)] := by
  simp [State.decBytes, List.range_succ]

/-- CRC_INIT has folded nothing. -/
theorem crcInit_folded {s : State} (hp : s.phase = phCrci) (hlen : 2 ≤ s.plen.toNat)
    (hs : s.noReset) : ∃ t, step s = .next t ∧ CrcFolded s 0 t := by
  have hstep := runsIn_crcInit.step_eq hs hp (execCrcInit_of_le hlen)
  refine ⟨_, hstep, step_noReset hs hstep, ?_, rfl, (crc16_nil _).symm, rfl⟩
  simp only [advance_phase, Nat.zero_add, eq_comm]

/-- CRC_BYTE folds the next byte of the range, while one is left. -/
theorem CrcFolded.crcByte {s t : State} {j : Nat} (h : CrcFolded s j t)
    (hj : j + 2 < s.plen.toNat) : ∃ u, step t = .next u ∧ CrcFolded s (j + 1) u := by
  have hp : t.phase = phCrcb := by rw [h.phase, if_neg hj.ne]
  have hk : t.k < decCap := by
    refine lt_decCap_of_lt_plen_add_two (plen := s.plen) ?_
    rw [h.k, hdrLen]
    omega
  have hstep := runsIn_crcByte.step_eq h.noReset hp (execCrcByte_of_lt hk)
  refine ⟨_, hstep, step_noReset h.noReset hstep, ?_, congrArg (· + 1) h.k, ?_, h.kept⟩
  · have hlast : t.k + 1 = t.plen.toNat + 2 ↔ j + 1 + 2 = s.plen.toNat := by
      rw [h.k, h.kept.plen, hdrLen]
      omega
    simp only [advance_phase, hlast]
  · rw [decBytes_succ, crc16_append_one, ← h.crc, ← h.k, ← h.kept.decCell]
    rfl

/-- What R125 says of the state `t` that the stage begun in `s` ends in. -/
structure CrcChecked (s t : State) : Prop where
  phase    : t.phase = phExtract
  crc      : t.crc = crc16 s.cfg.crcInit (s.decBytes hdrLen (s.plen.toNat - 2))
  crcMatch : t.crcMatch = flag (t.crc == s.dec16 (s.plen.toNat + 2))
  kept     : SameButCrcStage s t

/-- CRC_CMP compares once the whole range is folded. -/
theorem CrcFolded.crcCmp {s t : State} {j : Nat} (h : CrcFolded s j t)
    (hj : j + 2 = s.plen.toNat) : ∃ u, step t = .next u ∧ CrcChecked s u := by
  have hp : t.phase = phCrcc := by rw [h.phase, if_pos hj]
  refine ⟨_, runsIn_crcCmp.step_eq h.noReset hp rfl, rfl, ?_, ?_, h.kept⟩
  · rw [← hj]
    exact h.crc
  · rw [← h.kept.dec16, ← h.kept.plen]
    rfl

/-- One step for each byte left, and one for CRC_CMP. -/
theorem CrcFolded.finish {s t : State} {j left : Nat} (h : CrcFolded s j t)
    (hlen : j + left + 2 = s.plen.toNat) :
    ∃ u, steps (left + 1) t = .next u ∧ CrcChecked s u := by
  induction left generalizing j t with
  | zero =>
    obtain ⟨u, hu, hdone⟩ := h.crcCmp hlen
    exact ⟨u, steps_succ_of_step hu, hdone⟩
  | succ left ih =>
    obtain ⟨u, hu, hfolded⟩ := h.crcByte (by omega)
    obtain ⟨v, hv, hdone⟩ := ih hfolded (by omega)
    exact ⟨v, (steps_succ_of_step hu).trans hv, hdone⟩

/-- Settles O44: one step to `CrcFolded s 0`, and `PLEN - 1` from there by `CrcFolded.finish`. -/
theorem crcStageComputesCrc16 : Obligations.CrcStageComputesCrc16 := by
  intro s hp hlen hs
  obtain ⟨left, hleft⟩ : ∃ left, s.plen.toNat = left + 2 := Nat.exists_eq_add_of_le' hlen
  obtain ⟨t, ht, hfolded⟩ := crcInit_folded hp hlen hs
  obtain ⟨u, hu, hdone⟩ := hfolded.finish (left := left) (by omega)
  refine ⟨u, ?_, hdone.phase, hdone.crc, ?_, hdone.kept⟩
  · rw [hleft, steps_succ_of_step ht, hu]
  · rw [hdone.crcMatch, flag_eq_one, beq_iff_eq, hdone.crc]
    rfl

end Sys2Proof.Machine
end

section
/-!
PROOF. The field extractor (spec/43_extract.md R130 to R136): the guards of both layouts as bounds on
`PLEN`, the outcome of each operation in either case, and the two layouts that FILTER sees.
-/

namespace Sys2Proof.Machine

/-! ## The guards -/

/-- The header is always decoded, so a guard asks only for the bytes of the body it reaches (R56). -/
theorem decReadable_iff_le_plen (s : State) {i n body : Nat} (h : i + n = hdrLen + body) :
    s.decReadable i n = true ↔ body ≤ s.plen.toNat := by
  rw [decReadable_iff, h, State.decLen]
  exact Nat.add_le_add_iff_left

theorem decReadable_off55Uptime (s : State) :
    s.decReadable off55Uptime 4 = true ↔ 18 ≤ s.plen.toNat := decReadable_iff_le_plen s rfl

theorem decReadable_off55Meter (s : State) :
    s.decReadable off55Meter 4 = true ↔ 24 ≤ s.plen.toNat := decReadable_iff_le_plen s rfl

theorem decReadable_offD5Meter (s : State) :
    s.decReadable offD5Meter 4 = true ↔ 9 ≤ s.plen.toNat := decReadable_iff_le_plen s rfl

/-! ## The operations, branch by branch -/

theorem execExtractL55_of_le {s : State} (h : 24 ≤ s.plen.toNat) :
    execExtractL55 s =
      .next { s with upTime := s.dec32 off55Uptime, meterId := s.dec32 off55Meter,
                     meterId2 := 0, layout := layoutL55, phase := phFilter } := by
  have htime := (decReadable_off55Uptime s).2 (le_trans (by decide) h)
  have hmeter := (decReadable_off55Meter s).2 h
  rw [execExtractL55_eq, if_pos htime, if_pos hmeter]

theorem execExtractLd5_of_le {s : State} (h : 9 ≤ s.plen.toNat) :
    execExtractLd5 s =
      .next { s with meterId2 := s.dec32 offD5Meter2, meterId := s.dec32 offD5Meter,
                     upTime := 0, layout := layoutLd5, phase := phFilter } :=
  if_pos ((decReadable_offD5Meter s).2 h)

theorem execExtractLd5_of_lt {s : State} (h : s.plen.toNat < 9) :
    execExtractLd5 s = .next (takeDrop .decOor s) :=
  if_neg (mt (decReadable_offD5Meter s).1 (not_le.2 h))

/-! ## The obligations -/

/-- Settles O20: the row's key is the first case of the dispatch, and both reads are big-endian by
`State.dec32`. -/
theorem extractL55ReadsFields : Obligations.ExtractL55ReadsFields := by
  refine ⟨fun s hrst hphase htype hlen => ?_, fun s => execExtractL55_of_le⟩
  rw [extractDispatchesOnTypeAndLength s hrst hphase, if_pos ⟨htype, hlen⟩]

/-- Settles O21: type 0xD5 leaves only the second case of the dispatch, and the one check decides
before any register is written (`execExtractLd5_of_le`, `execExtractLd5_of_lt`). -/
theorem extractLd5ReadsFields : Obligations.ExtractLd5ReadsFields := by
  refine ⟨fun s hrst hphase htype => ?_, fun s => ⟨execExtractLd5_of_le, execExtractLd5_of_lt⟩⟩
  have hnot55 : ¬ (s.ptype = 0x55 ∧ s.plen = 0x0023) := fun ⟨h55, _⟩ =>
    absurd (htype.symm.trans h55) (by decide)
  rw [extractDispatchesOnTypeAndLength s hrst hphase, if_neg hnot55, if_pos htype]

/-- Settles O22: neither layout's key leaves the last case of the dispatch, whose operation is the
drop itself and reads no configuration. -/
theorem extractRejectDrops : Obligations.ExtractRejectDrops := by
  refine ⟨fun s hrst hphase hnotD5 hnot55 => ?_, fun _ => rfl⟩
  rw [extractDispatchesOnTypeAndLength s hrst hphase, if_neg hnot55, if_neg hnotD5]

/-- Settles O42: the invariant holds the fields of one of the two layouts from FILTER on. -/
theorem filterSeesTwoLayouts : Obligations.FilterSeesTwoLayouts := by
  intro s hinv hphase
  have hfields : FieldsL55 s ∨ FieldsLd5 s :=
    hinv.message.fields (between_of_phase hphase (by decide))
  refine hfields.imp (fun hL55 => ⟨hL55.layout, ?_⟩) (fun hLd5 => ⟨hLd5.layout, hLd5.plen⟩)
  rw [hL55.plen]
  rfl

end Sys2Proof.Machine
end

section
/-!
PROOF. The acceptance filter (spec/44_filter.md R140 to R146): its four predicates as propositions,
the outcome of FILTER in either case, and at message level what a packet says about the configuration
it passed.
-/

namespace Sys2Proof.Machine

/-! ## The predicates -/

/-- R140 to R144. -/
theorem accepts_iff {cfg : FilterConfig} {crcMatch : Bit} {meterId meterId2 : Word} {plen : Half}
    {ptype : Byte} :
    accepts cfg crcMatch meterId meterId2 plen ptype = true ↔
      (crcMatch = 1 ∨ cfg.crcEn = 0) ∧
      (meterId = cfg.meterId ∨ meterId2 = cfg.meterId ∨ cfg.meterId = 0) ∧
      (plen = cfg.plen ∨ cfg.plen = 0) ∧ (ptype = cfg.ptype ∨ cfg.ptype = 0) := by
  simp only [accepts, crcPredicate, meterPredicate, lengthPredicate, typePredicate,
    Bool.and_eq_true, Bool.or_eq_true, beq_iff_eq, and_assoc, or_assoc]

/-- Settles O23: the four predicates are `accepts` on the block's registers, and `execFilter_eq` has
one outcome for each of its values. -/
theorem filterDecidesByFourPredicates : Obligations.FilterDecidesByFourPredicates := by
  refine ⟨runsIn_of_decodeKey (by decide) (by decide) rfl,
    fun s => ⟨fun hall => ?_, fun hnot => ?_⟩⟩
  · have haccepted : s.accepted = true := accepts_iff.2 hall
    exact (execFilter_eq s).trans (if_pos haccepted)
  · have hrejected : ¬ s.accepted = true := mt accepts_iff.1 hnot
    exact (execFilter_eq s).trans (if_neg hrejected)

/-! ## The stages that give a packet -/

/-- A message that gives a packet passes the frame parser, which reads no configuration, and then the
stages after it. -/
theorem decodeMessage_eq_some_iff {token : Token} {samples : List Byte} {cfg : FilterConfig}
    {p : Packet} :
    decodeMessage token samples cfg = some p ↔
      ∃ header, messageBytes samples (strideOf (sampleBit samples 0)).toNat 0 hdrLen = some header ∧
        ∃ body, messageBytes samples (strideOf (sampleBit samples 0)).toNat hdrLen
            (be16At header 2).toNat = some body ∧
          acceptDecoded token (header ++ body) (header.getD 1 0) (be16At header 2) cfg = some p := by
  simp only [decodeMessage_eq_bind, Option.bind_eq_some_iff]

/-- The stages after the frame parser give a packet when its length covers the CRC, a layout matches
and the filter accepts. -/
theorem acceptDecoded_eq_some_iff {token : Token} {dec : List Byte} {ptype : Byte} {plen : Half}
    {cfg : FilterConfig} {p : Packet} :
    acceptDecoded token dec ptype plen cfg = some p ↔
      2 ≤ plen.toNat ∧ ∃ f, messageFields dec ptype plen = some f ∧
        accepts cfg (flag (messageCrcMatch cfg dec plen)) f.meterId f.meterId2 plen ptype = true ∧
        { token := token, bytes := dec, ptype := ptype, plen := plen, layout := f.layout,
          meterId := f.meterId, meterId2 := f.meterId2, upTime := f.upTime : Packet } = p := by
  unfold acceptDecoded
  split_ifs with hshort
  · simp [not_le.2 hshort]
  · cases messageFields dec ptype plen with
    | none => simp
    | some f => simp [not_lt.1 hshort]

/-- Fields come from one of the two layouts, each with its type and length (R130). -/
theorem layout_of_messageFields {dec : List Byte} {ptype : Byte} {plen : Half} {f : Fields}
    (h : messageFields dec ptype plen = some f) :
    ptype = t55 ∧ plen = l55Len ∨ ptype = td5 ∧ 9 ≤ plen.toNat := by
  unfold messageFields at h
  split_ifs at h with h55 hd5
  · exact .inl h55
  · exact .inr hd5

/-! ## A weaker filter keeps every packet -/

/-- A sentinel makes its own predicate true and changes no other (R145). -/
theorem accepts_of_sentinel {cfg relaxed : FilterConfig} {crcMatch : Bit} {meterId meterId2 : Word}
    {plen : Half} {ptype : Byte}
    (hrelaxed : relaxed = { cfg with crcEn := 0 } ∨ relaxed = { cfg with meterId := 0 } ∨
      relaxed = { cfg with plen := 0 } ∨ relaxed = { cfg with ptype := 0 })
    (h : accepts cfg crcMatch meterId meterId2 plen ptype = true) :
    accepts relaxed crcMatch meterId meterId2 plen ptype = true := by
  obtain ⟨hcrc, hmeter, hlen, htype⟩ := accepts_iff.1 h
  rw [accepts_iff]
  obtain rfl | rfl | rfl | rfl := hrelaxed
  · exact ⟨.inr rfl, hmeter, hlen, htype⟩
  · exact ⟨hcrc, .inr (.inr rfl), hlen, htype⟩
  · exact ⟨hcrc, hmeter, .inr rfl, htype⟩
  · exact ⟨hcrc, hmeter, hlen, .inr rfl⟩

/-- Apart from the filter, the stages after the frame parser read only the CRC seed of the
configuration. -/
theorem acceptDecoded_mono {token : Token} {dec : List Byte} {ptype : Byte} {plen : Half}
    {cfg relaxed : FilterConfig} {p : Packet} (hseed : relaxed.crcInit = cfg.crcInit)
    (hfilter : ∀ {crcMatch : Bit} {meterId meterId2 : Word},
      accepts cfg crcMatch meterId meterId2 plen ptype = true →
        accepts relaxed crcMatch meterId meterId2 plen ptype = true)
    (h : acceptDecoded token dec ptype plen cfg = some p) :
    acceptDecoded token dec ptype plen relaxed = some p := by
  obtain ⟨hlen, f, hfields, haccepts, hp⟩ := acceptDecoded_eq_some_iff.1 h
  have hcrc : messageCrcMatch relaxed dec plen = messageCrcMatch cfg dec plen := by
    rw [messageCrcMatch, messageCrcMatch, hseed]
  refine acceptDecoded_eq_some_iff.2 ⟨hlen, f, hfields, ?_, hp⟩
  rw [hcrc]
  exact hfilter haccepts

/-- Settles O56: the frame parser reads no configuration, no sentinel changes the CRC seed, and the
filter still accepts (`accepts_of_sentinel`). -/
theorem filterIsMonotone : Obligations.FilterIsMonotone := by
  intro token samples cfg relaxed p hrelaxed h
  have hseed : relaxed.crcInit = cfg.crcInit := by
    obtain rfl | rfl | rfl | rfl := hrelaxed <;> rfl
  obtain ⟨header, hheader, body, hbody, hp⟩ := decodeMessage_eq_some_iff.1 h
  exact decodeMessage_eq_some_iff.2 ⟨header, hheader, body, hbody,
    acceptDecoded_mono hseed (accepts_of_sentinel hrelaxed) hp⟩

/-! ## Configurations that accept nothing -/

/-- A packet has the type and length of a layout, and both pass the filter. -/
theorem packet_of_decodeMessage {token : Token} {samples : List Byte} {cfg : FilterConfig}
    {p : Packet} (h : decodeMessage token samples cfg = some p) :
    (p.ptype = t55 ∧ p.plen = l55Len ∨ p.ptype = td5 ∧ 9 ≤ p.plen.toNat) ∧
      (p.plen = cfg.plen ∨ cfg.plen = 0) ∧ (p.ptype = cfg.ptype ∨ cfg.ptype = 0) := by
  obtain ⟨header, -, body, -, hp⟩ := decodeMessage_eq_some_iff.1 h
  obtain ⟨-, f, hfields, haccepts, rfl⟩ := acceptDecoded_eq_some_iff.1 hp
  obtain ⟨-, -, hlen, htype⟩ := accepts_iff.1 haccepts
  exact ⟨layout_of_messageFields hfields, hlen, htype⟩

/-- The shortest packet body of either layout has 9 bytes. -/
theorem nine_le_plen_of_layout {ptype : Byte} {plen : Half}
    (h : ptype = t55 ∧ plen = l55Len ∨ ptype = td5 ∧ 9 ≤ plen.toNat) : 9 ≤ plen.toNat := by
  obtain ⟨-, rfl⟩ | ⟨-, hlen⟩ := h
  · decide
  · exact hlen

/-- Settles O57: a packet's type is that of a layout (first kind), its length is fixed by the type
0x55 (second), and is at least 9 under either (third). -/
theorem someConfigurationsAcceptNothing : Obligations.SomeConfigurationsAcceptNothing := by
  intro token samples cfg hkind
  refine Option.eq_none_iff_forall_ne_some.2 fun p hp => ?_
  obtain ⟨hlayout, hlen, htype⟩ := packet_of_decodeMessage hp
  obtain ⟨hany, h55, hd5⟩ | ⟨h55, hany, h35⟩ | ⟨hlow, hhigh⟩ := hkind
  · have hsame : p.ptype = cfg.ptype := htype.resolve_right hany
    obtain ⟨hp55, -⟩ | ⟨hpd5, -⟩ := hlayout
    · exact h55 (hsame.symm.trans hp55)
    · exact hd5 (hsame.symm.trans hpd5)
  · have hsame : p.plen = cfg.plen := hlen.resolve_right hany
    have hp55 : p.ptype = 0x55 :=
      (htype.resolve_right (by rw [h55]; decide)).trans h55
    obtain ⟨-, hp35⟩ | ⟨hpd5, -⟩ := hlayout
    · exact h35 (hsame.symm.trans hp35)
    · exact absurd (hp55.symm.trans hpd5) (by decide)
  · have hany : cfg.plen ≠ 0 := fun hzero => absurd hlow (by rw [hzero]; decide)
    have hsame : p.plen = cfg.plen := hlen.resolve_right hany
    have hnine : 9 ≤ cfg.plen.toNat := hsame ▸ nine_le_plen_of_layout hlayout
    omega

end Sys2Proof.Machine
end

section
/-!
PROOF. The port operations, one by one (spec/45_interface.md R153 to R155, R160 to R162): the phase
selects each of them, a beat decides its outcome, and without one it holds.
-/

namespace Sys2Proof.Machine

/-! ## Selection -/

theorem runsIn_captureFirst : runsIn .captureFirst phIdle :=
  runsIn_of_decodeKey (by decide) (by decide) rfl

theorem runsIn_capture : runsIn .capture phCapture :=
  runsIn_of_decodeKey (by decide) (by decide) rfl

theorem runsIn_emitByte : runsIn .emitByte phEmit :=
  runsIn_of_decodeKey (by decide) (by decide) rfl

/-! ## Beats -/

/-- In IDLE and CAPTURE the block is ready, so the source alone decides (R155). -/
theorem inputBeat_eq_sValid {s : State} (hrst : s.pins.rst = false)
    (hphase : s.phase = phIdle ∨ s.phase = phCapture) : s.inputBeat = s.pins.sValid := by
  rw [Bool.eq_iff_iff, inputBeat_iff]
  exact ⟨fun ⟨_, hvalid, _⟩ => hvalid, fun hvalid => ⟨hrst, hvalid, hphase⟩⟩

/-- In EMIT a byte is offered, so the consumer alone decides (R162). -/
theorem outputBeat_eq_mReady {s : State} (hrst : s.pins.rst = false) (hphase : s.phase = phEmit) :
    s.outputBeat = s.pins.mReady := by
  rw [Bool.eq_iff_iff, outputBeat_iff]
  exact ⟨fun ⟨_, _, hready⟩ => hready, fun hready => ⟨hrst, hphase, hready⟩⟩

theorem outBus_of_mValid {s : State} (h : s.mValid = true) : s.outBus = s.driven := if_pos h

theorem outBus_of_not_mValid {s : State} (h : s.mValid = false) :
    s.outBus = Config.undriven s.edges := if_neg (Bool.eq_false_iff.1 h)

/-! ## The operations, branch by branch -/

/-- The first sample of a message in place (R153). -/
def State.tookFirst (s : State) : State :=
  { s.storeRaw 0 (bitOf s.pins.sSample) with
      token := s.pins.sMeta, n := 1, dropCause := .none, phase := phaseAfterSample s.pins.sLast }

/-- One more sample in place, counted but discarded past `RAW_CAP` (R154, R53). -/
def State.tookSample (s : State) : State :=
  { s with
      raw := if s.n < rawCap then Memory.write s.raw s.n (bitOf s.pins.sSample) else s.raw,
      n := min (s.n + 1) rawCap, phase := phaseAfterSample s.pins.sLast }

theorem execCaptureFirst_of_beat {s : State} (h : s.inputBeat = true) :
    execCaptureFirst s = .next s.tookFirst := if_pos h

theorem execCaptureFirst_of_noBeat {s : State} (h : s.inputBeat = false) :
    execCaptureFirst s = .next s := if_neg (Bool.eq_false_iff.1 h)

theorem execCapture_of_beat {s : State} (h : s.inputBeat = true) :
    execCapture s = .next s.tookSample := by
  rw [execCapture_eq, if_pos h, State.tookSample]
  split_ifs <;> rfl

theorem execCapture_of_noBeat {s : State} (h : s.inputBeat = false) :
    execCapture s = .next s := if_neg (Bool.eq_false_iff.1 h)

theorem execEmitByte_of_noBeat {s : State} (h : s.outputBeat = false) :
    execEmitByte s = .next s := if_neg (Bool.eq_false_iff.1 h)

theorem execEmitByte_of_last {s : State} (h : s.outputBeat = true) (hk : s.k < decCap)
    (hlast : s.k = s.decLen - 1) :
    execEmitByte s = .next { s with outbox := s.outbox ++ [s.driven], phase := phIdle } := by
  have hl : s.lastByte = true := beq_iff_eq.2 hlast
  rw [execEmitByte, if_pos h, if_neg (not_le.2 hk)]
  exact if_pos hl

theorem execEmitByte_of_more {s : State} (h : s.outputBeat = true) (hk : s.k < decCap)
    (hmore : s.k ≠ s.decLen - 1) :
    execEmitByte s =
      .next { s with outbox := s.outbox ++ [s.driven], k := s.k + 1, phase := phEmit } := by
  have hl : ¬ s.lastByte = true := mt beq_iff_eq.1 hmore
  rw [execEmitByte, if_pos h, if_neg (not_le.2 hk)]
  exact if_neg hl

/-- What CAPTURE leaves in `RAW`: the new sample below `RAW_CAP`, every other cell as it was. -/
theorem tookSample_rawCell (s : State) :
    (s.n < rawCap → s.tookSample.rawCell s.n = bitOf s.pins.sSample) ∧
      ∀ a, a ≠ s.n ∨ rawCap ≤ s.n → s.tookSample.rawCell a = s.rawCell a := by
  by_cases hn : s.n < rawCap
  · have hraw : s.tookSample.raw = Memory.write s.raw s.n (bitOf s.pins.sSample) := if_pos hn
    obtain ⟨hcell, hother⟩ := rawCell_of_write hraw
    exact ⟨fun _ => hcell, fun a ha => hother a (ha.resolve_right (not_le.2 hn))⟩
  · have hraw : s.tookSample.raw = s.raw := if_neg hn
    exact ⟨fun h => absurd h hn, fun a _ => rawCell_congr hraw a⟩

/-! ## The obligations -/

/-- Settles O26: `sReady_iff` and `mValid_iff`, and the data outputs' other branch. -/
theorem readyAndValidFollowPhase : Obligations.ReadyAndValidFollowPhase :=
  fun s => ⟨sReady_iff s, mValid_iff s, outBus_of_not_mValid⟩

/-- Settles O10: in IDLE a beat passes exactly when a sample is offered (`inputBeat_eq_sValid`), and
`tookFirst` writes one cell of `RAW`. -/
theorem captureFirstTakesFirstSample : Obligations.CaptureFirstTakesFirstSample := by
  refine ⟨runsIn_captureFirst, fun s hrst hphase => ?_⟩
  have hbeat := inputBeat_eq_sValid hrst (.inl hphase)
  refine ⟨fun hvalid => ⟨_, execCaptureFirst_of_beat (hbeat.trans hvalid), ?_⟩,
    fun hvalid => execCaptureFirst_of_noBeat (hbeat.trans hvalid)⟩
  obtain ⟨hcell, hother⟩ := rawCell_of_write (s := s) (t := s.tookFirst) rfl
  exact ⟨rfl, hcell, rfl, rfl, rfl, hother, fun _ => rfl, rfl⟩

/-- Settles O11: in CAPTURE a beat passes exactly when a sample is offered, `tookSample_rawCell` says
what it leaves in `RAW`, and the last clause is the invariant's. -/
theorem captureAppendsSample : Obligations.CaptureAppendsSample := by
  refine ⟨runsIn_capture, fun s hrst hphase => ?_, fun s hinv hphase => ?_⟩
  · have hbeat := inputBeat_eq_sValid hrst (.inr hphase)
    refine ⟨fun hvalid => ⟨_, execCapture_of_beat (hbeat.trans hvalid), ?_⟩,
      fun hvalid => execCapture_of_noBeat (hbeat.trans hvalid)⟩
    obtain ⟨hcell, hother⟩ := tookSample_rawCell s
    exact ⟨rfl, rfl, hcell, hother, fun _ => rfl, rfl⟩
  · exact (hinv.message.captured (between_of_phase hphase (by decide))).1

/-- Every byte of a packet has a cell in `DEC`, for every length (R9). -/
theorem decLen_le_decCap (s : State) : s.decLen ≤ decCap :=
  Nat.add_le_add_left (Nat.le_of_lt_succ s.plen.isLt) hdrLen

/-- Both layouts fix a body of at least 9 bytes. -/
theorem nine_le_plen_of_fields {s : State} (h : FieldsL55 s ∨ FieldsLd5 s) : 9 ≤ s.plen.toNat :=
  nine_le_plen_of_layout
    (h.imp (fun hL55 => ⟨hL55.ptype, hL55.plen⟩) fun hLd5 => ⟨hLd5.ptype, hLd5.plen⟩)

/-- Settles O24: the bounds are the invariant's, and in EMIT a beat passes exactly when the consumer is
ready (`outputBeat_eq_mReady`). -/
theorem emitByteSendsOneByte : Obligations.EmitByteSendsOneByte := by
  refine ⟨runsIn_emitByte, fun s hinv hphase => ?_, fun s hrst hphase => ?_⟩
  · obtain ⟨-, -, hk⟩ := hinv.message.emitting hphase
    have hbody := nine_le_plen_of_fields (hinv.message.fields (between_of_phase hphase (by decide)))
    exact ⟨Nat.le_sub_one_of_lt hk, hk.trans_le (decLen_le_decCap s), Nat.add_le_add_left hbody 4⟩
  · have hvalid := (mValid_iff s).2 ⟨hrst, hphase⟩
    have hbeat := outputBeat_eq_mReady hrst hphase
    have hdriven : s.driven =
        { byte := s.decCell s.k, last := if s.k = 4 + s.plen.toNat - 1 then 1 else 0,
          token := s.token, count := BitVec.ofNat 17 (4 + s.plen.toNat), packetType := s.ptype,
          packetLength := s.plen, layout := s.layout, meterId := s.meterId, meterId2 := s.meterId2,
          upTime := s.upTime } := by
      simp [State.driven, State.lastByte, State.decLen, hdrLen]
    refine ⟨hvalid, (outBus_of_mValid hvalid).trans hdriven, fun hready hk hlast => ?_,
      fun hready hk hmore => ?_, fun hready => execEmitByte_of_noBeat (hbeat.trans hready)⟩
    · rw [← hdriven]
      exact execEmitByte_of_last (hbeat.trans hready) hk hlast
    · rw [← hdriven]
      refine (execEmitByte_of_more (hbeat.trans hready) hk hmore).trans ?_
      rw [hphase]
      rfl

end Sys2Proof.Machine
end

section
/-!
PROOF. The closed form of acceptance (spec/45_interface.md R159). Header and body are one stretch of
decoded bytes, so a message gives a packet when that stretch can be decoded and the stages after the
frame parser give one for it.
-/

namespace Sys2Proof.Machine

/-! ## Header and body as one stretch -/

theorem messageBytes_append (samples : List Byte) (stride k a b : Nat) :
    messageBytes samples stride k (a + b) =
      (messageBytes samples stride k a).bind fun front =>
        (messageBytes samples stride (k + a) b).bind fun back => some (front ++ back) := by
  induction a generalizing k with
  | zero => simp [messageBytes]
  | succ a ih =>
    rw [Nat.succ_add, messageBytes, messageBytes, ih, Nat.succ_add_eq_add_succ]
    cases messageByte samples stride k <;> cases messageBytes samples stride (k + 1) a <;>
      cases messageBytes samples stride (k + (a + 1)) b <;> rfl

/-- `PTYPE` as the header's symbol spells it (R79). -/
def messageType (samples : List Byte) (stride : Nat) : Byte :=
  spelledByte samples stride 1

/-- `PLEN` as the header's symbols spell it (R79). -/
def messageLength (samples : List Byte) (stride : Nat) : Half :=
  spelledByte samples stride 2 ++ spelledByte samples stride 3

/-- The message-level function decodes as many bytes as the header says, and hands them to the stages
after the frame parser. -/
theorem decodeMessage_eq_acceptDecoded (token : Token) (samples : List Byte) (cfg : FilterConfig)
    {stride : Nat} (hstride : stride = (strideOf (sampleBit samples 0)).toNat) :
    decodeMessage token samples cfg =
      (messageBytes samples stride 0 (hdrLen + (messageLength samples stride).toNat)).bind fun dec =>
        acceptDecoded token dec (messageType samples stride) (messageLength samples stride) cfg := by
  rw [decodeMessage_eq_bind, ← hstride, messageBytes_append, Option.bind_assoc]
  refine Option.bind_congr fun header hheader => ?_
  have htype : header.getD 1 0 = messageType samples stride := by
    rw [header_eq_of_messageBytes hheader]
    rfl
  have hlen : be16At header 2 = messageLength samples stride := be16At_header hheader
  rw [htype, hlen, Option.bind_assoc, Nat.zero_add]
  rfl

/-! ## Acceptance -/

/-- The bytes of a message from byte 0 on. -/
theorem messageBytes_zero_eq_some_iff {samples : List Byte} {stride count : Nat} {bs : List Byte} :
    messageBytes samples stride 0 count = some bs ↔
      (0 < count → pDataBase + (count - 1) * stride + 8 ≤ samples.length) ∧
        bs = (List.range count).map (spelledByte samples stride) := by
  rw [messageBytes_eq_some_iff, Nat.zero_add, List.range_eq_range']

/-- The identifier that the filter compares first (R158), by the type alone. -/
def messageMeterId (dec : List Byte) (ptype : Byte) : Word :=
  if ptype = t55 then be32At dec off55Meter else be32At dec offD5Meter

/-- The identifier that the filter compares second (R158), by the type alone. -/
def messageMeterId2 (dec : List Byte) (ptype : Byte) : Word :=
  if ptype = t55 then 0 else be32At dec offD5Meter2

/-- A layout gives fields for its type and length, and the type alone says which identifiers. -/
theorem exists_messageFields_iff {dec : List Byte} {ptype : Byte} {plen : Half}
    {P : Word → Word → Prop} :
    (∃ f, messageFields dec ptype plen = some f ∧ P f.meterId f.meterId2) ↔
      (ptype = t55 ∧ plen = l55Len ∨ ptype = td5 ∧ 9 ≤ plen.toNat) ∧
        P (messageMeterId dec ptype) (messageMeterId2 dec ptype) := by
  have hdistinct : td5 ≠ t55 := by decide
  unfold messageFields messageMeterId messageMeterId2
  by_cases h55 : ptype = t55
  · subst h55
    by_cases hlen : plen = l55Len <;> simp [hlen, hdistinct.symm]
  · by_cases hd5 : ptype = td5 ∧ 9 ≤ plen.toNat <;> simp [h55, hd5, hdistinct]

/-- The stages after the frame parser give a packet exactly where a layout matches and the four
predicates hold (R159). -/
theorem acceptDecoded_isSome_iff {token : Token} {dec : List Byte} {ptype : Byte} {plen : Half}
    {cfg : FilterConfig} :
    (acceptDecoded token dec ptype plen cfg).isSome ↔
      (ptype = t55 ∧ plen = l55Len ∨ ptype = td5 ∧ 9 ≤ plen.toNat) ∧
      (messageCrcMatch cfg dec plen = true ∨ cfg.crcEn = 0) ∧
      (messageMeterId dec ptype = cfg.meterId ∨ messageMeterId2 dec ptype = cfg.meterId ∨
        cfg.meterId = 0) ∧
      (plen = cfg.plen ∨ cfg.plen = 0) ∧ (ptype = cfg.ptype ∨ cfg.ptype = 0) := by
  have hpacket : (acceptDecoded token dec ptype plen cfg).isSome ↔
      2 ≤ plen.toNat ∧ ∃ f, messageFields dec ptype plen = some f ∧
        accepts cfg (flag (messageCrcMatch cfg dec plen)) f.meterId f.meterId2 plen ptype = true := by
    simp only [Option.isSome_iff_exists, acceptDecoded_eq_some_iff]
    exact ⟨fun ⟨_, hlen, f, hf, hacc, _⟩ => ⟨hlen, f, hf, hacc⟩,
      fun ⟨hlen, f, hf, hacc⟩ => ⟨_, hlen, f, hf, hacc, rfl⟩⟩
  rw [hpacket, exists_messageFields_iff (P := fun a b => accepts _ _ a b _ _ = true), accepts_iff,
    flag_eq_one]
  refine and_iff_right_of_imp fun ⟨hlayout, _⟩ => ?_
  exact le_trans (by decide) (nine_le_plen_of_layout hlayout)

/-- Settles O52: the stretch of header and body has the samples it needs, the last byte's covering
the header's, and `acceptDecoded_isSome_iff` on its bytes. -/
theorem acceptanceClosedForm : Obligations.AcceptanceClosedForm := by
  intro token samples cfg stride byte ptype plen dec meterId meterId2
  have hdecode : (decodeMessage token samples cfg).isSome ↔
      pDataBase + (plen.toNat + 3) * stride + 8 ≤ samples.length ∧
        (acceptDecoded token dec ptype plen cfg).isSome := by
    have hlast : hdrLen + plen.toNat - 1 = plen.toNat + 3 := by
      unfold hdrLen
      omega
    have hbytes : ∀ bs, messageBytes samples stride 0 (hdrLen + plen.toNat) = some bs ↔
        pDataBase + (plen.toNat + 3) * stride + 8 ≤ samples.length ∧ bs = dec := fun bs => by
      rw [messageBytes_zero_eq_some_iff, hlast, forall_prop_of_true (Nat.add_pos_left (by decide) _)]
      rfl
    rw [decodeMessage_eq_acceptDecoded token samples cfg (stride := stride) rfl, Option.isSome_bind,
      Option.any_eq_true]
    constructor
    · rintro ⟨bs, hbs, hsome⟩
      obtain ⟨hcover, rfl⟩ := (hbytes bs).1 hbs
      exact ⟨hcover, hsome⟩
    · rintro ⟨hcover, hsome⟩
      exact ⟨dec, (hbytes dec).2 ⟨hcover, rfl⟩, hsome⟩
  have hheader : pDataBase + (plen.toNat + 3) * stride + 8 ≤ samples.length →
      pDataBase + 3 * stride + 8 ≤ samples.length := fun hcover => by
    have hmono : 3 * stride ≤ (plen.toNat + 3) * stride :=
      Nat.mul_le_mul_right _ (Nat.le_add_left ..)
    omega
  rw [hdecode, acceptDecoded_isSome_iff]
  exact ⟨fun ⟨hcover, hrest⟩ => ⟨hheader hcover, hcover, hrest⟩, fun ⟨_, hcover, hrest⟩ =>
    ⟨hcover, hrest⟩⟩

end Sys2Proof.Machine
end

section
/-!
PROOF. The table of phase transitions (spec/45_interface.md R157): the operation of each phase has the
row's outcomes and no others.
-/

namespace Sys2Proof.Machine

/-- In EXTRACT an operation of the three is selected, each for its own types and lengths (R130). -/
theorem extract_next_inv {s t : State} (hrst : s.pins.rst = false) (hphase : s.phase = phExtract)
    (h : step s = .next t) :
    (t.phase, t.dropCause) =
      if s.ptype = 0x55 ∧ s.plen = 0x0023 then (phFilter, s.dropCause)
      else if s.ptype = 0xD5 then
        if s.plen.toNat < 9 then (phIdle, .decOor) else (phFilter, s.dropCause)
      else (phIdle, .layout) := by
  rw [extractDispatchesOnTypeAndLength s hrst hphase] at h
  obtain ⟨u, hexec, rfl⟩ := retire_next_inv h
  split_ifs at hexec ⊢ with h55 hd5 hlen
  · have hlen : 24 ≤ s.plen.toNat := by rw [h55.2]; decide
    cases (execExtractL55_of_le hlen).symm.trans hexec
    rfl
  · cases (execExtractLd5_of_lt hlen).symm.trans hexec
    rfl
  · cases (execExtractLd5_of_le (not_lt.1 hlen)).symm.trans hexec
    rfl
  · cases hexec
    rfl

/-! ## `K` on entry -/

theorem runsIn_filter : runsIn .filter phFilter := runsIn_of_decodeKey (by decide) (by decide) rfl

/-- A step in a phase with one operation ran that operation. -/
theorem runsIn.next_inv {i : Instr} {p : Phase} (hi : runsIn i p) {s t : State}
    (hrst : s.pins.rst = false) (hp : s.phase = p) (h : step s = .next t) :
    ∃ u, exec i s = .next u ∧ t = u.advance :=
  retire_next_inv ((hi s hrst hp).symm.trans h)

/-- Either generation starts at byte 0 (R100, R101). -/
theorem k_after_gen {s t : State} (hrst : s.pins.rst = false) (hp : s.phase = phGen)
    (h : step s = .next t) : t.k = 0 := by
  obtain ⟨-, -, hgen⟩ := generationSetsStride s
  rw [hgen hrst hp] at h
  obtain ⟨u, hexec, rfl⟩ := retire_next_inv h
  split_ifs at hexec <;> cases hexec <;> rfl

/-- The CRC range starts after the header (R121). -/
theorem k_after_crcInit {s t : State} (hrst : s.pins.rst = false) (hp : s.phase = phCrci)
    (hlen : 2 ≤ s.plen.toNat) (h : step s = .next t) : t.k = hdrLen := by
  obtain ⟨u, hexec, rfl⟩ := runsIn_crcInit.next_inv hrst hp h
  cases (execCrcInit_of_le hlen).symm.trans hexec
  rfl

/-- An accepted packet is emitted from byte 0 on (R140). -/
theorem k_after_filter {s t : State} (hrst : s.pins.rst = false) (hp : s.phase = phFilter)
    (hemit : t.phase = phEmit) (h : step s = .next t) : t.k = 0 := by
  obtain ⟨u, hexec, rfl⟩ := runsIn_filter.next_inv hrst hp h
  obtain ⟨-, rfl⟩ | ⟨-, rfl⟩ := execFilter_next_inv hexec
  · rfl
  · exact absurd hemit (by decide : phIdle ≠ phEmit)

/-! ## The table -/

/-- Settles O25: every operation is selected in its own phase, and its outcomes are the cases of that
phase's row. -/
theorem phaseTransitionsFollowTable : Obligations.PhaseTransitionsFollowTable := by
  intro s t hstep
  obtain ⟨i, u, hdec, hexec, rfl⟩ := step_next_inv hstep
  obtain ⟨hrst, rfl⟩ | ⟨hrst, hi⟩ := phase?_of_decode hdec
  · cases hexec
    exact ⟨fun _ => ⟨rfl, rfl⟩, fun hlow => absurd (hrst.symm.trans hlow) (by decide)⟩
  have hlegal : s.phase ≤ phEmit :=
    (phase_le_of_decode hdec).resolve_left fun hreset => by simp [hreset, Instr.phase?] at hi
  refine ⟨fun hhigh => absurd (hhigh.symm.trans hrst) (by decide), fun _ => ⟨hlegal, ?_,
    fun hp => k_after_gen hrst hp hstep, fun hp hlen => k_after_crcInit hrst hp hlen hstep,
    fun hp hemit => k_after_filter hrst hp hemit hstep⟩⟩
  have hphase : ∀ {p : Phase}, i.phase? = some p → s.phase = p := phase_of_decode hdec
  cases i with
  | captureFirst =>
    have hp := hphase rfl
    rw [hp]
    obtain ⟨hb, rfl⟩ | ⟨hb, rfl⟩ := execCaptureFirst_next_inv hexec
    · exact (if_pos hb).symm
    · exact (congrArg (·, _) hp).trans (if_neg (Bool.eq_false_iff.1 hb)).symm
  | capture =>
    have hp := hphase rfl
    rw [hp]
    obtain ⟨hb, -, rfl⟩ | ⟨hb, -, rfl⟩ | ⟨hb, rfl⟩ := execCapture_next_inv hexec
    · exact (if_pos hb).symm
    · exact (if_pos hb).symm
    · exact (congrArg (·, _) hp).trans (if_neg (Bool.eq_false_iff.1 hb)).symm
  | guard =>
    rw [hphase rfl]
    obtain ⟨hn, rfl⟩ | ⟨hn, rfl⟩ := execGuard_next_inv hexec
    · exact (if_pos hn).symm
    · exact (if_neg (not_lt.2 hn)).symm
  | genG4 | genG5 | hdrParse | crcCmp =>
    rw [hphase rfl]
    cases hexec
    rfl
  | demapHdr =>
    rw [hphase rfl]
    obtain ⟨hn, rfl⟩ | ⟨hn, -, -, rfl⟩ := execDemapHdr_next_inv hexec
    · exact (if_pos hn).symm
    · exact (if_neg (not_le.2 hn)).symm
  | lchk =>
    rw [hphase rfl]
    obtain ⟨hn, rfl⟩ | ⟨hn, rfl⟩ := execLchk_next_inv hexec
    · exact (if_pos hn).symm
    · exact (if_neg (not_le.2 hn)).symm
  | demapPay =>
    rw [hphase rfl]
    obtain ⟨hn, rfl⟩ | ⟨hn, -, -, rfl⟩ := execDemapPay_next_inv hexec
    · exact (if_pos hn).symm
    · exact (if_neg (not_le.2 hn)).symm
  | crcInit =>
    rw [hphase rfl]
    obtain ⟨hn, rfl⟩ | ⟨hn, rfl⟩ := execCrcInit_next_inv hexec
    · exact (if_pos hn).symm
    · exact (if_neg (not_lt.2 hn)).symm
  | crcByte =>
    rw [hphase rfl]
    obtain ⟨-, rfl⟩ := execCrcByte_next_inv hexec
    rfl
  | extractL55 | extractLd5 | extractReject =>
    have hp := hphase rfl
    rw [hp]
    exact extract_next_inv hrst hp hstep
  | filter =>
    rw [hphase rfl]
    obtain ⟨-, rfl⟩ | ⟨-, rfl⟩ := execFilter_next_inv hexec
    · rfl
    · rfl
  | emitByte =>
    have hp := hphase rfl
    rw [hp]
    obtain ⟨hb, -, hlast, rfl⟩ | ⟨hb, -, hmore, rfl⟩ | ⟨hb, rfl⟩ := execEmitByte_next_inv hexec
    · exact ((if_pos hb).trans (congrArg (·, s.dropCause) (if_pos hlast))).symm
    · exact ((if_pos hb).trans (congrArg (·, s.dropCause) (if_neg hmore))).symm
    · exact (congrArg (·, _) hp).trans (if_neg (Bool.eq_false_iff.1 hb)).symm
  | reset | drop cause => cases hi

end Sys2Proof.Machine
end

section
/-!
PROOF. Runs that end in IDLE (spec/45_interface.md R157, R160): with no more input and the consumer
ready, a run is its first step and the run from there, and a packet in EMIT goes out byte by byte.
-/

namespace Sys2Proof.Machine

/-! ## The host after a message -/

/-- Nothing more is offered or scheduled, no reset comes, and the consumer is ready. -/
structure Quiet (s : State) : Prop where
  rst      : s.pins.rst = false
  sValid   : s.pins.sValid = false
  mReady   : s.pins.mReady = true
  schedule : s.schedule = []

section
variable {s t u : State} {i : Instr} {bound : Nat} {beats : List OutBus}

theorem Quiet.noReset (h : Quiet s) : s.noReset :=
  ⟨h.rst, by simp [h.schedule]⟩

/-- Past the schedule's end the pins keep their level (log 8). -/
theorem Quiet.of_step (h : Quiet s) (hstep : step s = .next t) : Quiet t := by
  obtain ⟨hpins, hsched⟩ := step_pins_schedule hstep
  have hkept : t.pins = s.pins := by rw [hpins, State.nextPins, h.schedule, List.headD_nil]
  exact ⟨hkept ▸ h.rst, hkept ▸ h.sValid, hkept ▸ h.mReady, by rw [hsched, h.schedule, List.tail_nil]⟩

theorem Quiet.of_steps {count : Nat} (h : Quiet s) (hsteps : steps count s = .next t) : Quiet t := by
  induction count generalizing s with
  | zero =>
    cases hsteps
    exact h
  | succ count ih =>
    obtain ⟨u, hu, hrest⟩ := steps_succ_next_inv hsteps
    exact ih (h.of_step hu) hrest

/-! ## Delivering beats -/

/-- After `bound` steps or more the block is in IDLE, with its configuration as it was and exactly
these beats sent. -/
def Delivers (bound : Nat) (beats : List OutBus) (s : State) : Prop :=
  ∀ count, bound ≤ count →
    ∃ t, steps count s = .next t ∧ t.phase = phIdle ∧ t.cfg = s.cfg ∧
      t.outbox = s.outbox ++ beats

theorem Delivers.mono {bound' : Nat} (h : Delivers bound beats s) (hle : bound ≤ bound') :
    Delivers bound' beats s :=
  fun count hcount => h count (hle.trans hcount)

theorem steps_add_of_steps {a b : Nat} (h : steps a s = .next u) :
    steps (a + b) s = steps b u := by
  induction a generalizing s with
  | zero =>
    cases h
    rw [Nat.zero_add]
  | succ a ih =>
    obtain ⟨v, hv, hrest⟩ := steps_succ_next_inv h
    rw [Nat.succ_add, steps_succ_of_step hv, ih hrest]

/-- Beats sent on the way come before those delivered from there. -/
theorem Delivers.of_steps {n : Nat} {sent : List OutBus} (h : steps n s = .next u)
    (hcfg : u.cfg = s.cfg) (hout : u.outbox = s.outbox ++ sent) (hu : Delivers bound beats u) :
    Delivers (n + bound) (sent ++ beats) s := by
  intro count hcount
  obtain ⟨rest, rfl⟩ := Nat.exists_eq_add_of_le ((Nat.le_add_right ..).trans hcount)
  obtain ⟨t, ht, hidle, hkept, hsent⟩ := hu rest (Nat.le_of_add_le_add_left hcount)
  refine ⟨t, (steps_add_of_steps h).trans ht, hidle, hkept.trans hcfg, ?_⟩
  rw [hsent, hout, List.append_assoc]

/-- A step that sends nothing leaves all beats to the run from there. -/
theorem Delivers.of_step (hstep : step s = .next u) (hcfg : u.cfg = s.cfg)
    (hout : u.outbox = s.outbox) (hu : Delivers bound beats u) : Delivers (bound + 1) beats s := by
  rw [Nat.add_comm]
  exact hu.of_steps (sent := []) (steps_succ_of_step hstep) hcfg (by rw [hout, List.append_nil])

/-- The same for the selected operation, seen from its own next state. -/
theorem Quiet.delivers_of_exec (h : Quiet s) (hsel : step s = retire (exec i s))
    (hu : exec i s = .next u) (hcfg : u.cfg = s.cfg) (hout : u.outbox = s.outbox)
    (hnext : Quiet u.advance → Delivers bound beats u.advance) : Delivers (bound + 1) beats s := by
  have hstep : step s = .next u.advance := by rw [hsel, hu, retire]
  exact (hnext (h.of_step hstep)).of_step hstep hcfg hout

/-- In IDLE with nothing offered the block holds (R153). -/
theorem Quiet.delivers_idle (h : Quiet s) (hp : s.phase = phIdle) : Delivers 0 [] s := by
  intro count _
  induction count generalizing s with
  | zero => exact ⟨s, rfl, hp, rfl, (List.append_nil _).symm⟩
  | succ count ih =>
    have hbeat : s.inputBeat = false := (inputBeat_eq_sValid h.rst (.inl hp)).trans h.sValid
    have hstep := runsIn_captureFirst.step_eq h.noReset hp (execCaptureFirst_of_noBeat hbeat)
    obtain ⟨t, ht, hrest⟩ := ih (h.of_step hstep) hp (Nat.zero_le _)
    exact ⟨t, (steps_succ_of_step hstep).trans ht, hrest⟩

/-- A drop ends the message with nothing sent (R172). -/
theorem Quiet.delivers_drop {c : DropCause} (h : Quiet s)
    (hsel : step s = retire (exec i s)) (hdrop : exec i s = .next (takeDrop c s)) :
    Delivers (bound + 1) [] s :=
  h.delivers_of_exec hsel hdrop rfl rfl fun hq => (hq.delivers_idle rfl).mono (Nat.zero_le _)

/-! ## EMIT -/

/-- The packet that the registers and `DEC` hold (R160, R161). -/
def State.packet (s : State) : Packet :=
  { token := s.token, bytes := s.decBytes 0 s.decLen, ptype := s.ptype, plen := s.plen,
    layout := s.layout, meterId := s.meterId, meterId2 := s.meterId2, upTime := s.upTime }

theorem decBytes_length (s : State) (start count : Nat) : (s.decBytes start count).length = count := by
  simp [State.decBytes]

theorem decBytes_zero_getElem? {count j : Nat} (s : State) (h : j < count) :
    (s.decBytes 0 count)[j]? = some (s.decCell j) := by
  simp [State.decBytes, h]

/-- The beat offered is the packet's beat number `K`. -/
theorem driven_eq_beat (h : s.k < s.decLen) : s.driven = s.packet.beat s.k := by
  have hlast : s.k = s.decLen - 1 ↔ s.k + 1 = s.decLen := by omega
  simp [State.driven, Packet.beat, State.packet, State.lastByte, decBytes_length,
    decBytes_zero_getElem? s h, hlast]

theorem Quiet.outputBeat (h : Quiet s) (hp : s.phase = phEmit) : s.outputBeat = true :=
  (outputBeat_eq_mReady h.rst hp).trans h.mReady

/-- One EMIT_BYTE sends one beat of the packet. -/
theorem Quiet.delivers_beat (h : Quiet s) (hp : s.phase = phEmit) (hk : s.k < s.decLen)
    (hu : exec .emitByte s = .next u) (hcfg : u.cfg = s.cfg)
    (hout : u.outbox = s.outbox ++ [s.driven])
    (hnext : Quiet u.advance → Delivers bound beats u.advance) :
    Delivers (bound + 1) (s.packet.beat s.k :: beats) s := by
  have hstep := runsIn_emitByte.step_eq h.noReset hp hu
  rw [← driven_eq_beat hk, Nat.add_comm]
  exact (hnext (h.of_step hstep)).of_steps (sent := [s.driven]) (steps_succ_of_step hstep) hcfg hout

/-- From byte `K` on, one step and one beat for each byte left. -/
theorem Quiet.delivers_emit {left : Nat} (h : Quiet s) (hp : s.phase = phEmit)
    (hk : s.k + left + 1 = s.decLen) :
    Delivers (left + 1) ((List.range' s.k (left + 1)).map s.packet.beat) s := by
  induction left generalizing s with
  | zero =>
    have hcell : s.k < decCap := lt_of_lt_of_le (by omega) (decLen_le_decCap s)
    exact h.delivers_beat hp (by omega)
      (execEmitByte_of_last (h.outputBeat hp) hcell (by omega)) rfl rfl
      fun hq => hq.delivers_idle rfl
  | succ left ih =>
    have hcell : s.k < decCap := lt_of_lt_of_le (by omega) (decLen_le_decCap s)
    refine h.delivers_beat hp (by omega)
      (execEmitByte_of_more (h.outputBeat hp) hcell (by omega)) rfl rfl fun hq => ih hq rfl ?_
    change s.k + 1 + left + 1 = s.decLen
    omega

/-- EMIT entered at byte 0 sends the whole packet. -/
theorem Quiet.delivers_packet (h : Quiet s) (hp : s.phase = phEmit) (hk : s.k = 0) :
    Delivers s.decLen s.packet.beats s := by
  obtain ⟨left, hleft⟩ : ∃ left, s.decLen = left + 1 :=
    Nat.exists_eq_add_of_le' (Nat.le_add_right_of_le (by decide))
  have hbeats : s.packet.beats = (List.range' s.k (left + 1)).map s.packet.beat := by
    rw [Packet.beats, State.packet, decBytes_length, hk, hleft, List.range_eq_range']
  rw [hleft, hbeats]
  exact h.delivers_emit hp (by omega)

end

end Sys2Proof.Machine
end

section
/-!
PROOF. From CRC_INIT to IDLE (spec/45_interface.md R157, R158): with the message decoded into `DEC`, the
run delivers what the stages after the frame parser give for those bytes.
-/

namespace Sys2Proof.Machine

/-! ## Reading the decoded bytes as a list -/

theorem be16At_decBytes {count i : Nat} (s : State) (h : i + 2 ≤ count) :
    be16At (s.decBytes 0 count) i = s.dec16 i := by
  simp only [be16At, State.dec16, List.getD_eq_getElem?_getD,
    decBytes_zero_getElem? s (show i < count by omega),
    decBytes_zero_getElem? s (show i + 1 < count by omega), Option.getD_some]

theorem be32At_decBytes {count i : Nat} (s : State) (h : i + 4 ≤ count) :
    be32At (s.decBytes 0 count) i = s.dec32 i := by
  rw [be32At, be16At_decBytes s (by omega), be16At_decBytes s (by omega), State.dec32]

theorem decBytes_drop_take {start count len : Nat} (s : State) (h : start + count ≤ len) :
    ((s.decBytes 0 len).drop start).take count = s.decBytes start count := by
  refine List.ext_getElem (by simp [decBytes_length]; omega) fun i _ _ => ?_
  simp [State.decBytes]

/-! ## FILTER and EXTRACT -/

/-- What the stages after the frame parser give for the bytes in `DEC`, under the header's type and
length (R158). -/
def State.verdict (s : State) : Option Packet :=
  acceptDecoded s.token (s.decBytes 0 s.decLen) s.ptype s.plen s.cfg

/-- The fields that the registers hold. -/
def State.fields (s : State) : Fields :=
  { layout := s.layout, meterId := s.meterId, meterId2 := s.meterId2, upTime := s.upTime }

/-- `CRC_MATCH` as R158 has it for the bytes in `DEC`. -/
def State.crcChecked (s : State) : Prop :=
  s.crcMatch = flag (messageCrcMatch s.cfg (s.decBytes 0 s.decLen) s.plen)

/-- With the CRC checked and the fields extracted, only the filter is left. -/
theorem verdict_of_fields {s : State} (hlen : 2 ≤ s.plen.toNat) (hcrc : s.crcChecked)
    (hfields : messageFields (s.decBytes 0 s.decLen) s.ptype s.plen = some s.fields) :
    s.verdict = if s.accepted then some s.packet else none := by
  rw [State.verdict, acceptDecoded, if_neg (not_lt.2 hlen), hfields, ← hcrc]
  rfl

section
variable {s : State}

theorem Quiet.delivers_filter (h : Quiet s) (hp : s.phase = phFilter) :
    Delivers (s.decLen + 1) (beatsOf (if s.accepted then some s.packet else none)) s := by
  have hsel := runsIn_filter s h.rst hp
  have hexec := execFilter_eq s
  split_ifs at hexec ⊢
  · exact h.delivers_of_exec hsel hexec rfl rfl fun hq => hq.delivers_packet rfl rfl
  · exact h.delivers_of_exec hsel hexec rfl rfl fun hq =>
      (hq.delivers_idle rfl).mono (Nat.zero_le _)

/-- An extraction that changes nothing the verdict depends on leaves it to the filter. -/
theorem Quiet.delivers_extracted {i : Instr} {u : State} (h : Quiet s)
    (hsel : step s = retire (exec i s)) (hu : exec i s = .next u) (hcfg : u.cfg = s.cfg)
    (hout : u.outbox = s.outbox) (hp : u.phase = phFilter) (hend : u.decLen = s.decLen)
    (hverdict : u.verdict = s.verdict) (hlen : 2 ≤ u.plen.toNat) (hcrc : u.crcChecked)
    (hfields : messageFields (u.decBytes 0 u.decLen) u.ptype u.plen = some u.fields) :
    Delivers (s.decLen + 2) (beatsOf s.verdict) s := by
  rw [← hend, ← hverdict, verdict_of_fields hlen hcrc hfields]
  exact h.delivers_of_exec hsel hu hcfg hout fun hq => hq.delivers_filter hp

theorem messageFields_l55 {dec : List Byte} {ptype : Byte} {plen : Half} (htype : ptype = t55)
    (hlen : plen = l55Len) :
    messageFields dec ptype plen =
      some { layout := layoutL55, meterId := be32At dec off55Meter, meterId2 := 0,
             upTime := be32At dec off55Uptime } := if_pos ⟨htype, hlen⟩

theorem messageFields_ld5 {dec : List Byte} {ptype : Byte} {plen : Half} (htype : ptype = td5)
    (hlen : 9 ≤ plen.toNat) :
    messageFields dec ptype plen =
      some { layout := layoutLd5, meterId := be32At dec offD5Meter,
             meterId2 := be32At dec offD5Meter2, upTime := 0 } := by
  have hnot55 : ¬ (ptype = t55 ∧ plen = l55Len) := fun ⟨h55, _⟩ =>
    absurd (htype.symm.trans h55) (by decide)
  exact (if_neg hnot55).trans (if_pos ⟨htype, hlen⟩)

/-- Without a layout there is no packet (R134). -/
theorem verdict_of_noLayout (h55 : ¬ (s.ptype = t55 ∧ s.plen = l55Len))
    (hd5 : s.ptype = td5 → s.plen.toNat < 9) : s.verdict = none := by
  rw [← Option.not_isSome_iff_eq_none]
  intro hsome
  obtain ⟨hlayout, -⟩ := acceptDecoded_isSome_iff.1 hsome
  obtain ⟨htype, hlen⟩ := hlayout.resolve_left h55
  exact not_lt.2 hlen (hd5 htype)

theorem Quiet.delivers_extract (h : Quiet s) (hp : s.phase = phExtract) (hlen : 2 ≤ s.plen.toNat)
    (hcrc : s.crcChecked) : Delivers (s.decLen + 2) (beatsOf s.verdict) s := by
  by_cases h55 : s.ptype = t55 ∧ s.plen = l55Len
  · obtain ⟨htype, hplen⟩ := h55
    have hbody : 24 ≤ s.plen.toNat := by rw [hplen]; decide
    have hread : off55Meter + 4 ≤ s.decLen :=
      (decReadable_iff ..).1 ((decReadable_off55Meter s).2 hbody)
    have hfields := messageFields_l55 (dec := s.decBytes 0 s.decLen) htype hplen
    rw [be32At_decBytes s hread, be32At_decBytes s (le_trans (by decide) hread)] at hfields
    exact h.delivers_extracted (extractL55ReadsFields.1 s h.rst hp htype hplen)
      (execExtractL55_of_le hbody) rfl rfl rfl rfl rfl hlen hcrc hfields
  by_cases hd5 : s.ptype = td5
  · have hsel := extractLd5ReadsFields.1 s h.rst hp hd5
    obtain hbody | hshort := le_or_gt 9 s.plen.toNat
    · have hread : offD5Meter + 4 ≤ s.decLen :=
        (decReadable_iff ..).1 ((decReadable_offD5Meter s).2 hbody)
      have hfields := messageFields_ld5 (dec := s.decBytes 0 s.decLen) hd5 hbody
      rw [be32At_decBytes s hread, be32At_decBytes s (le_trans (by decide) hread)] at hfields
      exact h.delivers_extracted hsel (execExtractLd5_of_le hbody) rfl rfl rfl rfl rfl
        hlen hcrc hfields
    · rw [verdict_of_noLayout h55 fun _ => hshort]
      exact h.delivers_drop hsel (execExtractLd5_of_lt hshort)
  · rw [verdict_of_noLayout h55 fun h => absurd h hd5]
    exact h.delivers_drop (extractRejectDrops.1 s h.rst hp hd5 h55) rfl

/-! ## The CRC stage -/

theorem eq_flag_of_iff {b : Bit} {c : Bool} (h : b = 1 ↔ c = true) : b = flag c := by
  obtain rfl | rfl := BitVec.eq_zero_or_eq_one b
  · have hc : c = false := Bool.eq_false_iff.2 fun hc => absurd (h.2 hc) (by decide)
    rw [hc]
    rfl
  · rw [h.1 rfl]
    rfl

/-- The CRC range of the decoded bytes, and the CRC stored behind it (R121, R123). -/
theorem messageCrcMatch_decBytes (s : State) (hlen : 2 ≤ s.plen.toNat) :
    messageCrcMatch s.cfg (s.decBytes 0 s.decLen) s.plen =
      (crc16 s.cfg.crcInit (s.decBytes hdrLen (s.plen.toNat - 2)) == s.dec16 (s.plen.toNat + 2)) := by
  have hrange : hdrLen + (s.plen.toNat - 2) ≤ s.decLen := by unfold State.decLen; omega
  have hstored : s.plen.toNat + 2 + 2 ≤ s.decLen := by unfold State.decLen hdrLen; omega
  rw [messageCrcMatch, decBytes_drop_take s hrange, be16At_decBytes s hstored]

/-- Below 2 bytes of body there is no room for the stored CRC (R121). -/
theorem verdict_of_noCrcRoom (hlen : s.plen.toNat < 2) : s.verdict = none := if_pos hlen

/-- With the whole message decoded, the CRC stage takes `PLEN` steps (R125) and changes nothing that
the verdict depends on. -/
theorem Quiet.delivers_crc (h : Quiet s) (hp : s.phase = phCrci) :
    Delivers (s.plen.toNat + (s.decLen + 2)) (beatsOf s.verdict) s := by
  obtain hshort | hlen := lt_or_ge s.plen.toNat 2
  · rw [verdict_of_noCrcRoom hshort]
    exact h.delivers_drop (runsIn_crcInit s h.rst hp) (execCrcInit_of_lt hshort)
  obtain ⟨t, ht, hphase, -, hmatch, hkept⟩ := crcStageComputesCrc16 s hp hlen h.noReset
  have hplen : t.plen = s.plen := (congrArg State.plen hkept :)
  have hend : t.decLen = s.decLen := (congrArg State.decLen hkept :)
  have hverdict : t.verdict = s.verdict := (congrArg State.verdict hkept :)
  have hcrc : t.crcChecked := by
    have hsame : messageCrcMatch t.cfg (t.decBytes 0 t.decLen) t.plen =
        messageCrcMatch s.cfg (s.decBytes 0 s.decLen) s.plen :=
      (congrArg (fun u : State => messageCrcMatch u.cfg (u.decBytes 0 u.decLen) u.plen) hkept :)
    rw [State.crcChecked, hsame, messageCrcMatch_decBytes s hlen]
    exact eq_flag_of_iff (hmatch.trans beq_iff_eq.symm)
  have hrest := (h.of_steps ht).delivers_extract hphase (hplen ▸ hlen) hcrc
  rw [hend, hverdict] at hrest
  exact hrest.of_steps (sent := []) ht (congrArg State.cfg hkept :)
    ((congrArg State.outbox hkept :).trans (List.append_nil _).symm)

end

end Sys2Proof.Machine
end

section
/-!
PROOF. From GUARD to CRC_INIT (spec/45_interface.md R157, R158): with a message captured, the run
delivers what the message-level function gives for it. Demapping keeps one form, `Demapping`: `DEC`
holds the first `K` bytes of the captured samples.
-/

namespace Sys2Proof.Machine

/-! ## The captured samples -/

theorem samples_length (s : State) : s.samples.length = s.n := by
  simp [State.samples]

theorem bitOf_setWidth (b : Bit) : bitOf (b.setWidth 8) = b := by
  obtain rfl | rfl := BitVec.eq_zero_or_eq_one b <;> rfl

theorem sampleBit_samples {s : State} {i : Nat} (h : i < s.n) :
    sampleBit s.samples i = s.rawCell i := by
  simp [sampleBit, State.samples, List.getD_eq_getElem?_getD, h, bitOf_setWidth]

/-- One round of assembly halves the byte and puts the new bit on top. -/
theorem shiftInBit_toNat (acc : Byte) (b : Bit) :
    (shiftInBit acc b).toNat = acc.toNat / 2 + 128 * b.toNat := by
  obtain rfl | rfl := BitVec.eq_zero_or_eq_one b
  · revert acc
    decide
  · revert acc
    decide

/-- Assembling eight bits is summing them by weight (R76, R158). -/
theorem assembleBits_eq_ofNat_sum (b : Nat → Bit) :
    assembleBits ([0, 1, 2, 3, 4, 5, 6, 7].map b) =
      BitVec.ofNat 8 ([0, 1, 2, 3, 4, 5, 6, 7].map fun j => (b j).toNat <<< j).sum := by
  have hbit : ∀ j, (b j).toNat < 2 := fun j => (b j).isLt
  have h0 := hbit 0
  have h1 := hbit 1
  have h2 := hbit 2
  have h3 := hbit 3
  have h4 := hbit 4
  have h5 := hbit 5
  have h6 := hbit 6
  have h7 := hbit 7
  apply BitVec.eq_of_toNat_eq
  simp only [assembleBits, List.map_cons, List.map_nil, List.foldl_cons, List.foldl_nil,
    shiftInBit_toNat, List.sum_cons, List.sum_nil, Nat.shiftLeft_eq, BitVec.toNat_ofNat]
  omega

/-- Inside the message, the byte at the cursor is the one that the symbol spells. -/
theorem byteAtCursor_eq_spelledByte {s : State} (h : s.bitCursor + 7 < s.n) :
    s.byteAtCursor s.bitCursor = spelledByte s.samples s.stride.toNat s.k := by
  rw [State.byteAtCursor, assembleBits_eq_ofNat_sum, spelledByte, sumOfBits]
  congr 2
  refine List.map_congr_left fun j hj => ?_
  have hj : j < 8 := (by decide : ∀ j ∈ [0, 1, 2, 3, 4, 5, 6, 7], j < 8) j hj
  have hcell : sampleBit s.samples (s.bitCursor + j) = s.rawCell (s.bitCursor + j) :=
    sampleBit_samples (by omega)
  rw [← hcell]
  rfl

/-! ## Demapping -/

/-- The captured message fits `RAW`, its marker has fixed the stride, and `DEC` holds its first `K`
bytes. -/
structure Demapping (s : State) : Prop where
  fits   : s.n ≤ rawCap
  stride : s.stride = strideOf (sampleBit s.samples 0)
  bytes  : messageBytes s.samples s.stride.toNat 0 s.k = some (s.decBytes 0 s.k)

/-- A demapped byte extends the form by one. -/
theorem Demapping.demapped {s : State} (h : Demapping s) (hn : s.bitCursor + 7 < s.n) (p : Phase) :
    Demapping (s.demapped p).advance := by
  refine ⟨h.fits, h.stride, ?_⟩
  obtain ⟨hcell, hother⟩ := decCell_of_write (s := s) (t := (s.demapped p).advance) rfl
  have hkept : (s.demapped p).advance.decBytes 0 s.k = s.decBytes 0 s.k :=
    List.map_congr_left fun j hj => hother _ (by have := List.mem_range.1 hj; omega)
  have hbytes : (s.demapped p).advance.decBytes 0 (s.k + 1) =
      s.decBytes 0 s.k ++ [spelledByte s.samples s.stride.toNat s.k] := by
    rw [decBytes_succ, hkept, Nat.zero_add, hcell, byteAtCursor_eq_spelledByte hn]
  obtain ⟨-, hbefore⟩ := messageBytes_zero_eq_some_iff.1 h.bytes
  refine messageBytes_zero_eq_some_iff.2 ⟨fun _ => ?_, hbytes.trans ?_⟩
  · exact (Nat.succ_le_of_lt hn).trans (samples_length s).ge
  · rw [hbefore]
    change _ = (List.range (s.k + 1)).map _
    rw [List.range_succ, List.map_append]
    rfl

/-! ## The message-level function on the captured message -/

/-- What the message-level function gives for the captured message (R158). -/
def State.result (s : State) : Option Packet :=
  decodeMessage s.token s.samples s.cfg

/-- `PTYPE` and `PLEN` hold the header's fields (R112). -/
structure HeaderParsed (s : State) : Prop where
  ptype : s.ptype = messageType s.samples s.stride.toNat
  plen  : s.plen = messageLength s.samples s.stride.toNat

section
variable {s : State}

/-- A byte of the packet is one that the header asks for. -/
theorem HeaderParsed.lt_of_lt_decLen (h : HeaderParsed s) {j : Nat} (hj : j < s.decLen) :
    j < hdrLen + (messageLength s.samples s.stride.toNat).toNat :=
  hj.trans_eq (congrArg (hdrLen + BitVec.toNat ·) h.plen)

theorem Demapping.result_eq (h : Demapping s) :
    s.result =
      (messageBytes s.samples s.stride.toNat 0
        (hdrLen + (messageLength s.samples s.stride.toNat).toNat)).bind fun dec =>
          acceptDecoded s.token dec (messageType s.samples s.stride.toNat)
            (messageLength s.samples s.stride.toNat) s.cfg :=
  decodeMessage_eq_acceptDecoded s.token s.samples s.cfg (congrArg BitVec.toNat h.stride)

/-- All bytes demapped: the stages after the frame parser decide. -/
theorem Demapping.result_eq_verdict (h : Demapping s) (hparsed : HeaderParsed s)
    (hk : s.k = s.decLen) : s.result = s.verdict := by
  have hbytes := h.bytes
  rw [hk] at hbytes
  rw [h.result_eq, ← hparsed.ptype, ← hparsed.plen, State.verdict]
  exact (congrArg (Option.bind · _) hbytes).trans (Option.bind_some ..)

/-- A message without a byte that its header asks for gives no packet (R57). -/
theorem Demapping.result_of_outOfRange (h : Demapping s) (hn : s.n ≤ s.bitCursor + 7)
    (hk : s.k < hdrLen + (messageLength s.samples s.stride.toNat).toNat) : s.result = none := by
  rw [h.result_eq, Option.bind_eq_none_iff]
  intro dec hdec
  obtain ⟨hcover, -⟩ := messageBytes_zero_eq_some_iff.1 hdec
  have hcover := hcover (Nat.zero_lt_of_lt hk)
  have hcursor : s.k * s.stride.toNat ≤
      (hdrLen + (messageLength s.samples s.stride.toNat).toNat - 1) * s.stride.toNat :=
    Nat.mul_le_mul_right _ (Nat.le_sub_one_of_lt hk)
  rw [samples_length] at hcover
  unfold State.bitCursor at hn
  omega

/-- A message that LCHK drops has no packet (R116). -/
theorem Demapping.result_of_le_plen (h : Demapping s) (hparsed : HeaderParsed s)
    (hn : s.n ≤ s.plen.toNat) : s.result = none := by
  rw [h.result_eq, ← hparsed.plen, Option.bind_eq_none_iff]
  intro dec hdec
  have hstride : 0 < s.stride.toNat := by
    rw [h.stride]
    exact Nat.zero_lt_of_lt (nine_le_strideOf _)
  have hneeded := add_le_length_of_messageBytes hstride (Nat.add_pos_left (by decide) _) hdec
  rw [samples_length] at hneeded
  omega

/-- HDR_PARSE reads the header's fields from the bytes demapped. -/
theorem Demapping.header_cells (h : Demapping s) (hk : s.k = hdrLen) :
    s.decCell 1 = messageType s.samples s.stride.toNat ∧
      s.dec16 2 = messageLength s.samples s.stride.toNat := by
  have hheader := h.bytes
  rw [hk] at hheader
  have htype := decBytes_zero_getElem? s (show 1 < hdrLen by decide)
  have hlen := be16At_decBytes s (show 2 + 2 ≤ hdrLen by decide)
  rw [header_eq_of_messageBytes hheader] at htype
  exact ⟨(Option.some.inj htype).symm, hlen.symm.trans (be16At_header hheader)⟩

/-! ## The demap loops -/

theorem runsIn_guard : runsIn .guard phGuard := runsIn_of_decodeKey (by decide) (by decide) rfl

theorem runsIn_demapHdr : runsIn .demapHdr phHdr :=
  runsIn_of_decodeKey (by decide) (by decide) rfl

theorem runsIn_hdrParse : runsIn .hdrParse phHparse :=
  runsIn_of_decodeKey (by decide) (by decide) rfl

theorem runsIn_lchk : runsIn .lchk phLchk := runsIn_of_decodeKey (by decide) (by decide) rfl

theorem runsIn_demapPay : runsIn .demapPay phPay :=
  runsIn_of_decodeKey (by decide) (by decide) rfl

/-- One byte of a demap loop: the message ends before it and gives no packet, or the run goes on with
the byte demapped. -/
theorem Demapping.delivers_demapped {i : Instr} {next : Phase} {bound : Nat} (h : Demapping s)
    (hq : Quiet s) (hsel : step s = retire (exec i s)) (hexec : exec i s = demapOutcome next s)
    (hk : s.k < hdrLen + (messageLength s.samples s.stride.toNat).toNat)
    (hnext : Demapping (s.demapped next).advance → Quiet (s.demapped next).advance →
      Delivers bound (beatsOf s.result) (s.demapped next).advance) :
    Delivers (bound + 1) (beatsOf s.result) s := by
  obtain hn | hn := le_or_gt s.n (s.bitCursor + 7)
  · rw [h.result_of_outOfRange hn hk]
    exact hq.delivers_drop hsel (hexec.trans (demapOutcome_drop next hn))
  · have hcell : s.k < decCap :=
      hk.trans_le (Nat.add_le_add_left (Nat.le_of_lt_succ (BitVec.isLt _)) hdrLen)
    exact hq.delivers_of_exec hsel (hexec.trans (demapOutcome_demapped next hn h.fits hcell)) rfl rfl
      (hnext (h.demapped hn next))

/-- With the whole message demapped the CRC stage decides. -/
theorem Demapping.delivers_decoded (h : Demapping s) (hparsed : HeaderParsed s) (hq : Quiet s)
    (hp : s.phase = phCrci) (hk : s.k = s.decLen) :
    Delivers (s.plen.toNat + (s.decLen + 2)) (beatsOf s.result) s := by
  rw [h.result_eq_verdict hparsed hk]
  exact hq.delivers_crc hp

/-- DEMAP_PAY, one step for each byte left, and then the CRC stage. -/
theorem Demapping.delivers_pay {left : Nat} (h : Demapping s) (hparsed : HeaderParsed s)
    (hq : Quiet s) (hp : s.phase = phPay) (hk : s.k + left + 1 = s.decLen) :
    Delivers (s.plen.toNat + (s.decLen + 2) + (left + 1)) (beatsOf s.result) s := by
  induction left generalizing s with
  | zero =>
    refine h.delivers_demapped hq (runsIn_demapPay s hq.rst hp) (execDemapPay_eq s)
      (hparsed.lt_of_lt_decLen (by omega)) fun hd hq => ?_
    exact hd.delivers_decoded ⟨hparsed.ptype, hparsed.plen⟩ hq (if_pos hk) hk
  | succ left ih =>
    have hmore : ¬ s.k + 1 = s.decLen := by omega
    refine h.delivers_demapped hq (runsIn_demapPay s hq.rst hp) (execDemapPay_eq s)
      (hparsed.lt_of_lt_decLen (by omega)) fun hd hq => ?_
    refine ih hd ⟨hparsed.ptype, hparsed.plen⟩ hq (if_neg hmore) ?_
    change s.k + 1 + left + 1 = s.decLen
    omega

/-- LCHK drops, or goes on to the body, which may be empty. -/
theorem Demapping.delivers_lchk (h : Demapping s) (hparsed : HeaderParsed s) (hq : Quiet s)
    (hp : s.phase = phLchk) (hk : s.k = hdrLen) :
    Delivers (3 * s.plen.toNat + 7) (beatsOf s.result) s := by
  have hsel := runsIn_lchk s hq.rst hp
  obtain hn | hn := le_or_gt s.n s.plen.toNat
  · rw [h.result_of_le_plen hparsed hn]
    exact hq.delivers_drop hsel (execLchk_of_le hn)
  have hexec := execLchk_of_lt hn
  have hend : s.decLen = hdrLen + s.plen.toNat := rfl
  by_cases hzero : s.plen = 0
  · rw [if_pos hzero] at hexec
    have hlen : s.plen.toNat = 0 := by rw [hzero]; rfl
    refine (hq.delivers_of_exec hsel hexec rfl rfl fun hq =>
      Demapping.delivers_decoded ⟨h.fits, h.stride, h.bytes⟩ ⟨hparsed.ptype, hparsed.plen⟩ hq rfl
        ?_).mono ?_
    · change s.k = s.decLen
      omega
    · change s.plen.toNat + (s.decLen + 2) + 1 ≤ _
      rw [hend, hdrLen]
      omega
  · rw [if_neg hzero] at hexec
    obtain ⟨left, hleft⟩ : ∃ left, s.plen.toNat = left + 1 :=
      Nat.exists_eq_succ_of_ne_zero fun h0 => hzero (BitVec.eq_of_toNat_eq h0)
    refine (hq.delivers_of_exec hsel hexec rfl rfl fun hq =>
      Demapping.delivers_pay (left := left) ⟨h.fits, h.stride, h.bytes⟩
        ⟨hparsed.ptype, hparsed.plen⟩ hq rfl ?_).mono ?_
    · change s.k + left + 1 = s.decLen
      omega
    · change s.plen.toNat + (s.decLen + 2) + (left + 1) + 1 ≤ _
      rw [hend, hdrLen]
      omega

/-- The header's fields read, and LCHK next (R112). -/
def State.withHeader (s : State) : State :=
  { s with ptype := s.decCell 1, plen := s.dec16 2, phase := phLchk }

/-- HDR_PARSE, and then at most what the longest body takes (R202). -/
theorem Demapping.delivers_hdrParse (h : Demapping s) (hq : Quiet s) (hp : s.phase = phHparse)
    (hk : s.k = hdrLen) : Delivers (3 * lMax + 8) (beatsOf s.result) s := by
  obtain ⟨htype, hlen⟩ := h.header_cells hk
  have hmax : (s.dec16 2).toNat ≤ lMax := Nat.le_of_lt_succ (s.dec16 2).isLt
  have hexec : exec .hdrParse s = .next s.withHeader := rfl
  have hd : Demapping s.withHeader.advance := ⟨h.fits, h.stride, h.bytes⟩
  refine hq.delivers_of_exec (runsIn_hdrParse s hq.rst hp) hexec rfl rfl fun hq => ?_
  refine (hd.delivers_lchk ⟨htype, hlen⟩ hq rfl hk).mono ?_
  change 3 * (s.dec16 2).toNat + 7 ≤ _
  omega

/-- DEMAP_HDR, one step for each header byte left. -/
theorem Demapping.delivers_hdr {left : Nat} (h : Demapping s) (hq : Quiet s) (hp : s.phase = phHdr)
    (hk : s.k + left + 1 = hdrLen) :
    Delivers (3 * lMax + 8 + (left + 1)) (beatsOf s.result) s := by
  induction left generalizing s with
  | zero =>
    refine h.delivers_demapped hq (runsIn_demapHdr s hq.rst hp) (execDemapHdr_eq s) (by omega)
      fun hd hq => ?_
    exact hd.delivers_hdrParse hq (if_pos hk) hk
  | succ left ih =>
    have hmore : ¬ s.k + 1 = hdrLen := by omega
    refine h.delivers_demapped hq (runsIn_demapHdr s hq.rst hp) (execDemapHdr_eq s) (by omega)
      fun hd hq => ?_
    refine ih hd hq (if_neg hmore) ?_
    change s.k + 1 + left + 1 = hdrLen
    omega

/-! ## GEN and GUARD -/

/-- Either generation sets the stride of the marker and starts demapping at byte 0. -/
theorem Quiet.delivers_gen (h : Quiet s) (hp : s.phase = phGen) (hfits : s.n ≤ rawCap)
    (hn : 0 < s.n) : Delivers (3 * lMax + 13) (beatsOf s.result) s := by
  obtain ⟨hG4, hG5, hsel⟩ := generationSetsStride s
  have hsel := hsel h.rst hp
  have hmarker : sampleBit s.samples 0 = s.rawCell 0 := sampleBit_samples hn
  by_cases hzero : s.rawCell 0 = 0
  · rw [if_pos hzero] at hsel
    refine h.delivers_of_exec hsel hG4 rfl rfl fun hq =>
      Demapping.delivers_hdr (left := 3) ⟨hfits, ?_, rfl⟩ hq rfl rfl
    exact (congrArg strideOf (hmarker.trans hzero)).symm
  · have hone : s.rawCell 0 = 1 := (BitVec.eq_zero_or_eq_one _).resolve_left hzero
    rw [if_neg hzero] at hsel
    refine h.delivers_of_exec hsel hG5 rfl rfl fun hq =>
      Demapping.delivers_hdr (left := 3) ⟨hfits, ?_, rfl⟩ hq rfl rfl
    exact (congrArg strideOf (hmarker.trans hone)).symm

/-- A captured message delivers the beats of its packet, or none. -/
theorem Quiet.delivers_guard (h : Quiet s) (hp : s.phase = phGuard) (hfits : s.n ≤ rawCap) :
    Delivers (3 * lMax + 14) (beatsOf s.result) s := by
  have hsel := runsIn_guard s h.rst hp
  obtain hshort | henough := lt_or_ge s.n minSamples
  · have hnone : s.result = none :=
      decodeMessage_of_short s.token s.cfg ((samples_length s).trans_lt hshort)
    rw [hnone]
    exact h.delivers_drop hsel (execGuard_of_short hshort)
  · exact h.delivers_of_exec hsel (execGuard_of_enough henough) rfl rfl fun hq =>
      hq.delivers_gen rfl hfits (lt_of_lt_of_le (by decide) henough)

end

end Sys2Proof.Machine
end

section
/-!
PROOF. A whole message (spec/45_interface.md R152 to R154, R158): its beats are captured one by one,
`RAW` holding the samples taken so far up to `RAW_CAP`, and the run from GUARD delivers its packet.
-/

namespace Sys2Proof.Machine

/-! ## The samples taken so far -/

/-- `RAW` and `N` hold the samples taken so far, up to `RAW_CAP` (R53). -/
structure Captured (taken : List Byte) (s : State) : Prop where
  n   : s.n = min taken.length rawCap
  raw : ∀ i < s.n, s.rawCell i = sampleBit taken i

theorem sampleBit_append_left {front back : List Byte} {i : Nat} (h : i < front.length) :
    sampleBit (front ++ back) i = sampleBit front i := by
  simp [sampleBit, List.getD_eq_getElem?_getD, List.getElem?_append_left h]

theorem sampleBit_append_length (front : List Byte) (b : Byte) :
    sampleBit (front ++ [b]) front.length = bitOf b := by
  simp [sampleBit, List.getD_eq_getElem?_getD]

theorem sampleBit_of_length_le {samples : List Byte} {i : Nat} (h : samples.length ≤ i) :
    sampleBit samples i = bitOf 0 := by
  simp [sampleBit, List.getD_eq_getElem?_getD, List.getElem?_eq_none h]

theorem captured_tookFirst (s : State) : Captured [s.pins.sSample] s.tookFirst := by
  refine ⟨rfl, fun i hi => ?_⟩
  obtain rfl : i = 0 := Nat.lt_one_iff.1 hi
  exact (rawCell_of_write (s := s) (t := s.tookFirst) rfl).1

/-- One more sample, taken or, past `RAW_CAP`, discarded. -/
theorem Captured.tookSample {taken : List Byte} {s : State} (h : Captured taken s) :
    Captured (taken ++ [s.pins.sSample]) s.tookSample := by
  have hn : s.tookSample.n = min (s.n + 1) rawCap := rfl
  have hcount := h.n
  obtain ⟨hcell, hother⟩ := tookSample_rawCell s
  refine ⟨?_, fun i hi => ?_⟩
  · rw [hn, List.length_append, List.length_singleton]
    omega
  · by_cases hnew : i = s.n ∧ s.n < rawCap
    · obtain ⟨rfl, hroom⟩ := hnew
      have hall : s.n = taken.length := by omega
      rw [hcell hroom, hall, sampleBit_append_length]
    · have hold : i < s.n := by omega
      rw [hother i (by omega), h.raw i hold, sampleBit_append_left (by omega)]

/-- What the message-level function gives depends only on the number of samples and on their truth
values (R77). -/
theorem decodeMessage_congr {samples samples' : List Byte} (token : Token) (cfg : FilterConfig)
    (hlen : samples.length = samples'.length)
    (hbits : ∀ i < samples.length, sampleBit samples i = sampleBit samples' i) :
    decodeMessage token samples cfg = decodeMessage token samples' cfg := by
  have hall : ∀ i, sampleBit samples i = sampleBit samples' i := fun i => by
    obtain hi | hi := lt_or_ge i samples.length
    · exact hbits i hi
    · rw [sampleBit_of_length_le hi, sampleBit_of_length_le (hlen ▸ hi)]
  exact onlyMarkerAndDataBitsMatter token samples samples' cfg hlen (hall 0) fun _ _ _ _ => hall _

/-- The captured message gives what the message presented gives. -/
theorem Captured.result_eq {samples : List Byte} {s : State} (h : Captured samples s) :
    s.result = decodeMessage s.token samples s.cfg := by
  have hn := h.n
  rw [State.result, ← samplesPastRawCapNeverMatter s.token samples s.cfg]
  refine decodeMessage_congr _ _ ?_ fun i hi => ?_
  · rw [samples_length, List.length_take, Nat.min_comm, hn]
  · rw [samples_length] at hi
    rw [sampleBit_samples hi, h.raw i hi, sampleBit_take (by omega)]

/-! ## Presenting the message -/

theorem messagePins_cons (cfgPins : FilterConfig) (token : Token) (b : Byte) (rest : List Byte) :
    messagePins cfgPins token (b :: rest) =
      beatPins cfgPins token b rest.isEmpty :: messagePins cfgPins token rest := by
  cases rest <;> rfl

/-- The message's beats to come, and then nothing more. -/
def Presented (cfgPins : FilterConfig) (token : Token) (rest : List Byte) (s : State) : Prop :=
  s.pins :: s.schedule = messagePins cfgPins token rest ++ [quietPins cfgPins]

section
variable {s u : State} {cfgPins : FilterConfig} {token : Token} {b : Byte} {rest : List Byte}

theorem Presented.quiet (h : Presented cfgPins token [] s) : Quiet s := by
  obtain ⟨hpins, hsched⟩ := List.cons.inj h
  exact ⟨by rw [hpins]; rfl, by rw [hpins]; rfl, by rw [hpins]; rfl, hsched⟩

theorem Presented.pins (h : Presented cfgPins token (b :: rest) s) :
    s.pins = beatPins cfgPins token b rest.isEmpty := by
  rw [Presented, messagePins_cons] at h
  exact (List.cons.inj h).1

/-- While the block takes samples, the beat presented passes. -/
theorem Presented.inputBeat (h : Presented cfgPins token (b :: rest) s)
    (hp : s.phase = phIdle ∨ s.phase = phCapture) : s.inputBeat = true := by
  rw [inputBeat_iff, h.pins]
  exact ⟨rfl, rfl, hp⟩

/-- The next edge shows the next beat, or the quiet pins. -/
theorem Presented.advance (h : Presented cfgPins token (b :: rest) s) (hpins : u.pins = s.pins)
    (hsched : u.schedule = s.schedule) : Presented cfgPins token rest u.advance := by
  rw [Presented, messagePins_cons, List.cons_append] at h
  have htail := (List.cons.inj h).2
  rw [Presented, advance_pins, advance_schedule, State.nextPins, hpins, hsched, htail]
  cases rest with
  | nil => rfl
  | cons b' rest' => rw [messagePins_cons]; rfl

/-- From the first sample on: the samples still presented are captured, one step each, and the message
is decoded. -/
theorem Captured.delivers {taken : List Byte} (h : Captured taken s)
    (hhost : Presented cfgPins token rest s) (hp : s.phase = phaseAfterSample rest.isEmpty) :
    Delivers (3 * lMax + 14 + rest.length) (beatsOf (decodeMessage s.token (taken ++ rest) s.cfg))
      s := by
  induction rest generalizing taken s with
  | nil =>
    have hfits : s.n ≤ rawCap := h.n.trans_le (Nat.min_le_right ..)
    rw [List.append_nil, ← h.result_eq]
    exact hhost.quiet.delivers_guard hp hfits
  | cons b rest ih =>
    have hpins := hhost.pins
    have hstep : step s = .next s.tookSample.advance :=
      (runsIn_capture s (by rw [hpins]; rfl) hp).trans
        (congrArg retire (execCapture_of_beat (hhost.inputBeat (.inr hp))))
    have hphase : s.tookSample.phase = phaseAfterSample rest.isEmpty :=
      congrArg (fun p : Pins => phaseAfterSample p.sLast) hpins
    have hcaptured : Captured (taken ++ [b]) s.tookSample := by
      have hsample := h.tookSample
      rwa [hpins] at hsample
    have hnext := ih (taken := taken ++ [b]) (s := s.tookSample.advance)
      ⟨hcaptured.n, hcaptured.raw⟩ (hhost.advance rfl rfl) hphase
    rw [List.append_assoc] at hnext
    exact hnext.of_step hstep rfl rfl

/-- The first sample brings the token, and the rest follow. -/
theorem Presented.delivers (h : Presented cfgPins token (b :: rest) s) (hp : s.phase = phIdle) :
    Delivers (3 * lMax + 14 + (b :: rest).length)
      (beatsOf (decodeMessage token (b :: rest) s.cfg)) s := by
  have hpins := h.pins
  have hstep : step s = .next s.tookFirst.advance :=
    (runsIn_captureFirst s (by rw [hpins]; rfl) hp).trans
      (congrArg retire (execCaptureFirst_of_beat (h.inputBeat (.inl hp))))
  have hphase : s.tookFirst.phase = phaseAfterSample rest.isEmpty :=
    congrArg (fun p : Pins => phaseAfterSample p.sLast) hpins
  have htoken : s.tookFirst.token = token := congrArg Pins.sMeta hpins
  have hcaptured : Captured [b] s.tookFirst := by
    have hsample := captured_tookFirst s
    rwa [hpins] at hsample
  have hnext := Captured.delivers (s := s.tookFirst.advance) ⟨hcaptured.n, hcaptured.raw⟩
    (h.advance rfl rfl) hphase
  rw [advance_token, htoken] at hnext
  exact hnext.of_step hstep rfl rfl

end

/-- Settles O49: the message is captured one beat a step, processed within the bound of R202, and its
packet delivered (`Presented.delivers`). -/
theorem wholeMessageRunComputesDecode : Obligations.WholeMessageRunComputesDecode := by
  intro s token samples cfgPins hidle hne hhost
  obtain ⟨b, rest, rfl⟩ := List.exists_cons_of_ne_nil hne
  have hpresented : Presented cfgPins token (b :: rest) s := hhost
  refine (hpresented.delivers hidle).mono ?_
  unfold lMax
  omega

end Sys2Proof.Machine
end

section
/-!
PROOF. The drop and its cause (spec/60_exceptions.md R172, R174): a drop leaves the block in IDLE,
where nothing is offered and a sample can be taken, and no port, no test and no value that an
operation writes depends on `DROP_CAUSE`, but for `DROP_CAUSE` itself.
-/

namespace Sys2Proof.Machine

/-! ## Taking a drop -/

/-- In IDLE no output beat passes. -/
theorem outputBeat_of_idle {s : State} (h : s.phase = phIdle) : s.outputBeat = false := by
  rw [State.outputBeat, mValid_of_idle h, Bool.and_false, Bool.false_and]

/-- Settles O9: DROP is `takeDrop`, and the ports are those of IDLE. -/
theorem dropRecordsCauseAndReturnsToIdle : Obligations.DropRecordsCauseAndReturnsToIdle := by
  refine fun cause s => ⟨rfl, outputBeat_of_idle rfl, fun hrst => ?_⟩
  rw [sReady_of_idle rfl, takeDrop_pins, hrst, Bool.not_false]

/-! ## States that differ in `DROP_CAUSE` alone -/

/-- The state with another `DROP_CAUSE`. -/
def State.withDropCause (c : DropCause) (s : State) : State :=
  { s with dropCause := c }

/-- Drops taken in one state differ in `DROP_CAUSE` alone, whatever their causes. -/
theorem takeDrop_eq_withDropCause (c c' : DropCause) (s : State) :
    takeDrop c s = (takeDrop c' s).withDropCause c := rfl

/-- No output shows `DROP_CAUSE`. -/
theorem portView_withDropCause (c : DropCause) (s : State) :
    (s.withDropCause c).portView = s.portView := rfl

/-- `DROP_CAUSE` takes no part in selecting the operation. -/
theorem selector_withDropCause (c : DropCause) (s : State) :
    (s.withDropCause c).selector = s.selector := rfl

/-! ## Outcomes that differ in `DROP_CAUSE` alone -/

/-- The two outcomes are the same but for the `DROP_CAUSE` of their next states. -/
def SameButCause (o o' : Host.Outcome State Fault Refusal) : Prop :=
  mapNext (State.withDropCause .none) o' = mapNext (State.withDropCause .none) o

/-- Two choices on equivalent conditions are the same but for the cause when their branches are. -/
theorem sameButCause_ite {p p' : Prop} [Decidable p] [Decidable p']
    {a b a' b' : Host.Outcome State Fault Refusal} (hp : p' ↔ p) (ha : SameButCause a a')
    (hb : SameButCause b b') : SameButCause (if p then a else b) (if p' then a' else b') :=
  ite_rel (R := SameButCause) hp (fun _ => ha) fun _ => hb

theorem mapNext_withDropCause_retire (c : DropCause) (o : Host.Outcome State Fault Refusal) :
    mapNext (State.withDropCause c) (retire o) = retire (mapNext (State.withDropCause c) o) := by
  cases o <;> rfl

/-- Moving to the next edge neither reads nor writes `DROP_CAUSE`. -/
theorem SameButCause.retire {o o' : Host.Outcome State Fault Refusal} (h : SameButCause o o') :
    SameButCause (retire o) (retire o') := by
  rw [SameButCause, mapNext_withDropCause_retire, mapNext_withDropCause_retire]
  exact congrArg Machine.retire h

/-! ## No operation reads `DROP_CAUSE` -/

theorem sameButCause_demapOutcome (next : Phase) (c : DropCause) (s : State) :
    SameButCause (demapOutcome next s) (demapOutcome next (s.withDropCause c)) :=
  sameButCause_ite Iff.rfl rfl (sameButCause_ite Iff.rfl rfl (sameButCause_ite Iff.rfl rfl rfl))

/-- No operation reads `DROP_CAUSE`: neither the conditions that it tests nor the values that it
writes depend on it. -/
theorem sameButCause_exec (i : Instr) (c : DropCause) (s : State) :
    SameButCause (exec i s) (exec i (s.withDropCause c)) := by
  cases i with
  | captureFirst | guard | lchk | crcInit | crcByte | extractLd5 =>
    exact sameButCause_ite Iff.rfl rfl rfl
  | capture =>
    simp only [exec, execCapture_eq]
    exact sameButCause_ite Iff.rfl (sameButCause_ite Iff.rfl rfl rfl) rfl
  | demapHdr =>
    simp only [exec, execDemapHdr_eq]
    exact sameButCause_demapOutcome _ c s
  | demapPay =>
    simp only [exec, execDemapPay_eq]
    exact sameButCause_demapOutcome _ c s
  | extractL55 =>
    exact sameButCause_ite Iff.rfl (sameButCause_ite Iff.rfl rfl rfl) rfl
  | filter =>
    simp only [exec, execFilter_eq]
    exact sameButCause_ite Iff.rfl rfl rfl
  | emitByte =>
    exact sameButCause_ite Iff.rfl
      (sameButCause_ite Iff.rfl rfl (sameButCause_ite Iff.rfl rfl rfl)) rfl
  | genG4 | genG5 | hdrParse | crcCmp | extractReject | reset | drop cause => rfl

/-- A step selects the same operation, or meets the same fault, whatever `DROP_CAUSE` holds. -/
theorem sameButCause_step (c : DropCause) (s : State) :
    SameButCause (step s) (step (s.withDropCause c)) := by
  rw [step, step, selector_withDropCause]
  cases decode s.selector with
  | ok i => exact (sameButCause_exec i c s).retire
  | error e => rfl

/-- Settles O33: a step by `sameButCause_step`, and after a drop the ports are those of IDLE, where
nothing is offered. -/
theorem dropCauseIsInvisible : Obligations.DropCauseIsInvisible := by
  refine ⟨fun s c => ⟨portView_withDropCause c s, sameButCause_step c s⟩, fun s c c' => ?_⟩
  have hports : (takeDrop c s).portView = (takeDrop c' s).portView := by
    rw [takeDrop_eq_withDropCause c c' s, portView_withDropCause]
  exact ⟨hports, mValid_of_idle rfl, takeDrop_outbox s c⟩

end Sys2Proof.Machine
end

section
/-!
PROOF. The decoder over all 2^28 keys (spec/30_encoding.md R84, R85, R88 to R90): a row reads of a
key only the bits of its mask, so in each phase the key can be cut to the bits that the rows of that
phase read.
-/

namespace Sys2Proof

/-! ## The fields of a key -/

theorem getLsbD_append_low {w v : Nat} (a : BitVec w) (b : BitVec v) {i : Nat} (h : i < v) :
    (a ++ b).getLsbD i = b.getLsbD i := by
  rw [BitVec.getLsbD_append, if_pos h]

/-- A field of the low part of a key is that of the low part alone. -/
theorem extractLsb'_append_of_le {w v start len : Nat} (a : BitVec w) (b : BitVec v)
    (h : start + len ≤ v) : (a ++ b).extractLsb' start len = b.extractLsb' start len := by
  refine BitVec.eq_of_getLsbD_eq fun i hi => ?_
  rw [BitVec.getLsbD_extractLsb', BitVec.getLsbD_extractLsb', getLsbD_append_low a b (by omega)]

/-- The fields that EXTRACT reads: `PTYPE` and `PLEN` (R89). -/
theorem extract_fields (p : Phase) (ptype : Byte) (plen : Half) :
    (p ++ (ptype ++ plen : BitVec (8 + 16)) : BitVec (4 + 24)).extractLsb' 16 8 = ptype ∧
      (p ++ (ptype ++ plen : BitVec (8 + 16)) : BitVec (4 + 24)).extractLsb' 0 16 = plen :=
  ⟨(extractLsb'_append_of_le _ _ (by decide)).trans (extractLsb'_append_high ..),
    (extractLsb'_append_of_le _ _ (by decide)).trans (extractLsb'_append_low ..)⟩

/-! ## The bits that a phase's rows read -/

/-- A row of another phase selects no key of this one, whatever the low bits. -/
theorem OpRow.selects_of_ne_phase {r : OpRow} (hr : r ∈ opTable) {p : Phase} (d : BitVec 24)
    (h : keyPhase r.value ≠ p) : r.selects (p ++ d : BitVec (4 + 24)) = false :=
  Bool.eq_false_iff.2 fun hs =>
    h ((keyPhase_of_selects hr hs).symm.trans (keyPhase_append p d))

/-- `m` covers every low bit that a row of phase `p` reads. -/
def CoversRowsOf (p : Phase) (m : BitVec 24) : Prop :=
  ∀ r ∈ opTable, keyPhase r.value = p → m &&& r.mask.extractLsb' 0 24 = r.mask.extractLsb' 0 24

/-- Outside the covered bits a key's low bits do not matter. -/
theorem decodeKey_and {p : Phase} {m : BitVec 24} (h : CoversRowsOf p m) (d : BitVec 24) :
    decodeKey (p ++ d : BitVec (4 + 24)) = decodeKey (p ++ (d &&& m) : BitVec (4 + 24)) := by
  have hrow : ∀ r ∈ opTable, r.selects (p ++ d : BitVec (4 + 24)) =
      r.selects (p ++ (d &&& m) : BitVec (4 + 24)) := fun r hr => by
    by_cases hp : keyPhase r.value = p
    · rw [OpRow.selects_parts, OpRow.selects_parts, BitVec.and_assoc, h r hr hp]
    · rw [OpRow.selects_of_ne_phase hr _ hp, OpRow.selects_of_ne_phase hr _ hp]
  have hfind : opTable.find? (fun r => r.selects (p ++ d : BitVec (4 + 24))) =
      opTable.find? (fun r => r.selects (p ++ (d &&& m) : BitVec (4 + 24))) :=
    List.find?_congr hrow
  rw [decodeKey, decodeKey, hfind, keyPhase_append, keyPhase_append]

/-- Outside GEN and EXTRACT the rows read the phase alone (R88). -/
theorem decodeKey_of_phase {p : Phase} (hgen : p ≠ Machine.phGen) (hextract : p ≠ Machine.phExtract)
    (d : BitVec 24) : decodeKey (p ++ d : BitVec (4 + 24)) = decodeKey (p ++ (0 : BitVec 24)) := by
  have hcover : CoversRowsOf p 0 := by
    have hrows : ∀ r ∈ opTable, keyPhase r.value ≠ Machine.phGen →
        keyPhase r.value ≠ Machine.phExtract →
        (0 : BitVec 24) &&& r.mask.extractLsb' 0 24 = r.mask.extractLsb' 0 24 := by decide
    rintro r hr rfl
    exact hrows r hr hgen hextract
  have hzero : d &&& 0 = 0 := BitVec.and_zero
  rw [decodeKey_and hcover, hzero]

/-- The rows of GEN read bit 0 of the key (R89). -/
theorem decodeKey_genBit (d : BitVec 24) :
    decodeKey (Machine.phGen ++ d : BitVec (4 + 24)) =
      .ok (if d.getLsbD 0 then .genG5 else .genG4) := by
  have hcover : CoversRowsOf Machine.phGen 1 := by unfold CoversRowsOf; decide
  have hbit : d &&& 1 = (BitVec.ofBool (d.getLsbD 0)).setWidth 24 :=
    BitVec.and_one_eq_setWidth_ofBool_getLsbD
  rw [decodeKey_and hcover, hbit]
  cases d.getLsbD 0 <;> rfl

/-- The sixteen phase codes: GEN, EXTRACT, and those whose rows read the phase alone. -/
theorem phase_cases (p : Phase) :
    p = Machine.phGen ∨ p = Machine.phExtract ∨
      p ∈ [0x0, 0x1, 0x2, 0x4, 0x5, 0x6, 0x7, 0x8, 0x9, 0xA, 0xC, 0xD, 0xE, 0xF] := by
  revert p
  decide

/-! ## The obligations -/

/-- Settles O1: `decodeKey_genBit` in GEN, `decodeKey_extract` in EXTRACT, and in every other phase
the one key with all low bits zero. -/
theorem decodeKeySelectsByFields : Obligations.DecodeKeySelectsByFields := by
  intro key
  obtain ⟨p, d, rfl⟩ : ∃ (p : Phase) (d : BitVec 24), key = p ++ d := ⟨_, _, key_eq_append key⟩
  rw [extractLsb'_append_high]
  obtain rfl | rfl | hp := phase_cases p
  · rw [decodeKey_genBit, getLsbD_append_low _ _ (by decide)]
    rfl
  · obtain ⟨ptype, plen, rfl⟩ : ∃ (ptype : Byte) (plen : Half), d = ptype ++ plen :=
      ⟨_, _, (extractLsb'_append_extractLsb' (w := 8) (v := 16) d).symm⟩
    obtain ⟨htype, hlen⟩ := extract_fields Machine.phExtract ptype plen
    rw [decodeKey_extract, htype, hlen]
    rfl
  · rw [decodeKey_of_phase (by rintro rfl; revert hp; decide) (by rintro rfl; revert hp; decide)]
    fin_cases hp <;> rfl

/-- Settles O2: a key with the phase of the encoding decodes as its fields say
(`decodeKeySelectsByFields`), and the premises fix those that its phase reads. -/
theorem decodeOfEncodedOperation : Obligations.DecodeOfEncodedOperation := by
  intro i sel _ henc
  have hfields := fun (key : Key) (hp : key.extractLsb' 24 4 = sel.key.extractLsb' 24 4) =>
    hp ▸ decodeKeySelectsByFields key
  cases i with
  | reset =>
    cases henc
    exact ⟨rfl, fun _ _ => rfl, nofun⟩
  | drop cause => cases henc
  | genG4 =>
    cases henc
    refine ⟨rfl, nofun, fun _ key hp hbit _ _ _ => (hfields key hp).trans ?_⟩
    rw [hbit (.inl rfl)]
    rfl
  | genG5 =>
    cases henc
    refine ⟨rfl, nofun, fun _ key hp hbit _ _ _ => (hfields key hp).trans ?_⟩
    rw [hbit (.inr rfl)]
    rfl
  | extractL55 =>
    cases henc
    refine ⟨rfl, nofun, fun _ key _ _ hkey _ _ => ?_⟩
    rw [hkey rfl]
    rfl
  | extractLd5 =>
    cases henc
    refine ⟨rfl, nofun, fun _ key hp _ _ htype _ => (hfields key hp).trans ?_⟩
    rw [htype rfl]
    rfl
  | extractReject =>
    cases henc
    refine ⟨rfl, nofun, fun _ key hp _ _ _ hnone => (hfields key hp).trans ?_⟩
    obtain ⟨hnot55, hnotD5⟩ := hnone rfl
    rw [if_neg hnot55, if_neg hnotD5]
    rfl
  | _ =>
    cases henc
    exact ⟨rfl, nofun, fun _ key hp _ _ _ _ => (hfields key hp).trans rfl⟩

/-- Settles O3: the words are keys below 2^28, and the table is searched for each. -/
theorem tableWordsDecode : Obligations.TableWordsDecode := by
  unfold Obligations.TableWordsDecode
  decide

namespace Machine

/-- In EXTRACT the key holds `PTYPE` and `PLEN` (R89). -/
theorem dkey_extract {s : State} (hp : s.phase = phExtract) :
    s.dkey = phExtract ++ (s.ptype ++ s.plen : BitVec (8 + 16)) := by
  have hgen : s.phase ≠ phGen := by rw [hp]; decide
  rw [State.dkey, State.keyData, if_neg hgen, if_pos hp, hp]

/-- Outside GEN and EXTRACT the low bits of the key are 0 (R89). -/
theorem dkey_of_phase {s : State} (hgen : s.phase ≠ phGen) (hextract : s.phase ≠ phExtract) :
    s.dkey = s.phase ++ (0 : BitVec 24) := by
  rw [State.dkey, State.keyData, if_neg hgen, if_neg hextract]

/-- Settles O4: the key is the phase before the low 24 bits, `dkey_gen` in GEN, `dkey_extract` in
EXTRACT and `dkey_of_phase` elsewhere. -/
theorem decodeKeyOfState : Obligations.DecodeKeyOfState := by
  intro s
  refine ⟨keyPhase_dkey s, fun hgen => ?_, fun hextract => ?_, fun hgen hextract => ?_⟩
  · rw [dkey_gen hgen]
    exact extractLsb'_append_low ..
  · rw [dkey_extract hextract]
    exact extract_fields ..
  · rw [dkey_of_phase hgen hextract]
    exact extractLsb'_append_low ..

/-- Settles O5: the step retires the selected operation, and `State.advance` is the move to the next
edge. -/
theorem stepRunsSelectedOperation : Obligations.StepRunsSelectedOperation := by
  intro s i hdec
  have hstep : step s = retire (exec i s) := by rw [step, hdec]
  rw [hstep]
  cases exec i s <;> rfl

end Machine

end Sys2Proof
end

section
/-!
PROOF. The invariant's form (spec/10_state.md R40, spec/45_interface.md R157): what each phase on
the way has established for the message in hand, which stays so until the message ends, and what
holds inside a phase alone. `MessageInv` is these two at the state's own phase.
-/

namespace Sys2Proof.Machine

/-! ## What a phase establishes -/

/-- What holds from the given phase on until the message ends. -/
def Established (p : Nat) (s : State) : Prop :=
  match p with
  | 0x1 => 1 ≤ s.n ∧ ∀ i < s.n, s.rawWritten i
  | 0x3 => minSamples ≤ s.n
  | 0x4 => s.gen = s.rawCell 0 ∧ s.stride = strideOf s.gen
  | 0x6 => s.ptype = s.decCell 1 ∧ s.plen = s.dec16 2
  | 0x7 => s.plen.toNat < s.n
  | 0x8 => s.decodedUpTo s.decLen
  | 0x9 => 2 ≤ s.plen.toNat
  | 0xA => s.crc = crc16 s.cfg.crcInit (s.decBytes hdrLen (s.plen.toNat - 2))
  | 0xB => s.crcMatch = flag (s.crc == s.dec16 (s.plen.toNat + 2))
  | 0xC => FieldsL55 s ∨ FieldsLd5 s
  | _ => True

/-- Every phase up to the given one has done its part. -/
def Reached (p : Nat) (s : State) : Prop :=
  ∀ j ≤ p, Established j s

/-- What holds in the given phase alone: how far its loop has come. -/
def InPhase (p : Nat) (s : State) : Prop :=
  match p with
  | 0x4 => s.k < hdrLen ∧ s.decodedUpTo s.k
  | 0x5 => s.k = hdrLen ∧ s.decodedUpTo hdrLen
  | 0x6 => s.k = hdrLen ∧ s.decodedUpTo hdrLen
  | 0x7 => hdrLen ≤ s.k ∧ s.k < s.decLen ∧ s.decodedUpTo s.k
  | 0x9 => hdrLen ≤ s.k ∧ s.k < s.plen.toNat + 2 ∧
      s.crc = crc16 s.cfg.crcInit (s.decBytes hdrLen (s.k - hdrLen))
  | 0xD => s.accept = 1 ∧ s.accepted ∧ s.k < s.decLen
  | _ => True

/-- The ranges of the registers, in every phase. -/
def InRange (s : State) : Prop :=
  s.n ≤ rawCap ∧ s.k ≤ decCap ∧ s.layout ≠ 3

theorem MessageInv.inRange {s : State} (h : MessageInv s) : InRange s :=
  ⟨h.countBound, h.indexBound, h.layoutLegal⟩

theorem MessageInv.reached {s : State} {p : Phase} (h : MessageInv s) (hp : s.phase = p) :
    Reached p.toNat s := by
  subst hp
  intro j hj
  have hfrom : ∀ lo : Phase, lo.toNat ≤ s.phase.toNat → s.between lo phEmit :=
    fun _ hlo => ⟨hlo, h.legalPhase⟩
  match j with
  | 0x1 => exact h.captured (hfrom phCapture hj)
  | 0x3 => exact h.longEnough (hfrom phGen hj)
  | 0x4 => exact h.generation (hfrom phHdr hj)
  | 0x6 => exact h.header (hfrom phLchk hj)
  | 0x7 => exact h.lengthCheck (hfrom phPay hj)
  | 0x8 => exact h.bodyDone (hfrom phCrci hj)
  | 0x9 => exact h.crcRoom (hfrom phCrcb hj)
  | 0xA => exact h.crcDone (hfrom phCrcc hj)
  | 0xB => exact h.crcFlag (hfrom phExtract hj)
  | 0xC => exact h.fields (hfrom phFilter hj)
  | 0x0 | 0x2 | 0x5 | _ + 0xD => exact trivial

theorem MessageInv.inPhase {s : State} {p : Phase} (h : MessageInv s) (hp : s.phase = p) :
    InPhase p.toNat s := by
  have hat : ∀ {q : Phase}, p.toNat = q.toNat → s.phase = q :=
    fun hq => hp.trans (BitVec.eq_of_toNat_eq hq)
  unfold InPhase
  split
  case h_1 hq => exact h.headerByte (hat hq)
  case h_2 hq => exact h.headerDone (between_of_phase (hat (q := phHparse) hq) (by decide))
  case h_3 hq => exact h.headerDone (between_of_phase (hat (q := phLchk) hq) (by decide))
  case h_4 hq => exact h.bodyByte (hat hq)
  case h_5 hq => exact h.crcRunning (hat hq)
  case h_6 hq => exact h.emitting (hat hq)
  case h_7 => exact trivial

theorem eq_hparse_or_lchk :
    ∀ p : Phase, phHparse ≤ p ∧ p ≤ phLchk → p = phHparse ∨ p = phLchk := by decide

/-- A phase that has its part of the message done meets the invariant. -/
theorem messageInv_of_reached {s : State} (p : Phase) (hp : s.phase = p) (hlegal : p ≤ phEmit)
    (hrange : InRange s) (hreached : Reached p.toNat s) (hin : InPhase p.toNat s) :
    MessageInv s := by
  subst hp
  obtain ⟨hn, hk, hlayout⟩ := hrange
  have hat : ∀ {q : Phase}, s.phase = q → InPhase q.toNat s := fun hq => hq ▸ hin
  exact {
    legalPhase := hlegal
    countBound := hn
    indexBound := hk
    layoutLegal := hlayout
    captured := fun h => hreached 0x1 h.1
    longEnough := fun h => hreached 0x3 h.1
    generation := fun h => hreached 0x4 h.1
    headerByte := fun h => hat h
    headerDone := fun h => by
      obtain hp | hp := eq_hparse_or_lchk s.phase h
      · exact hat hp
      · exact hat hp
    header := fun h => hreached 0x6 h.1
    lengthCheck := fun h => hreached 0x7 h.1
    bodyByte := fun h => hat h
    bodyDone := fun h => hreached 0x8 h.1
    crcRoom := fun h => hreached 0x9 h.1
    crcRunning := fun h => hat h
    crcDone := fun h => hreached 0xA h.1
    crcFlag := fun h => hreached 0xB h.1
    fields := fun h => hreached 0xC h.1
    emitting := fun h => hat h }

/-- In IDLE no message is in hand. -/
theorem messageInv_of_idle {s : State} (hp : s.phase = phIdle) (hrange : InRange s) :
    MessageInv s := by
  refine messageInv_of_reached phIdle hp (by decide) hrange (fun j hj => ?_) trivial
  obtain rfl := Nat.le_zero.1 hj
  exact trivial

end Sys2Proof.Machine
end

section
/-!
PROOF. The invariant is inductive (spec/10_state.md R39, R40, R117, spec/45_interface.md R157): each
operation keeps what the phases before have established and does the part of the phase that it
enters.
-/

namespace Sys2Proof.Machine

section
variable {s t : State} {p : Nat}

/-! ## Keeping what is established -/

/-- `t` differs from `s` at most in control, in `ACCEPT` and in the model's own fields: in nothing
that a message establishes on its way. -/
def SameMessage (s t : State) : Prop :=
  { t with phase := s.phase, k := s.k, accept := s.accept, dropCause := s.dropCause,
           pins := s.pins, schedule := s.schedule, outbox := s.outbox, edges := s.edges } = s

theorem SameMessage.established {j : Nat} (h : SameMessage s t) (hs : Established j s) :
    Established j t := by
  have ht := (congrArg (Established j) h).mpr hs
  match j with
  | 0xC =>
    obtain hL55 | hLd5 := ht
    · exact .inl { hL55 with layout := hL55.layout }
    · exact .inr { hLd5 with layout := hLd5.layout }
  | 0x0 | 0x1 | 0x2 | 0x3 | 0x4 | 0x5 | 0x6 | 0x7 | 0x8 | 0x9 | 0xA | 0xB | _ + 0xD => exact ht

theorem Reached.of_sameMessage (h : Reached p s) (hsame : SameMessage s t) : Reached p t :=
  fun j hj => hsame.established (h j hj)

/-- Entering the next phase takes what it establishes. -/
theorem Reached.succ (h : Reached p s) (hnew : Established (p + 1) s) : Reached (p + 1) s := by
  intro j hj
  obtain hle | rfl := Nat.le_succ_iff.1 hj
  · exact h j hle
  · exact hnew

/-- Moving to the next edge keeps the invariant. -/
theorem MessageInv.advance (h : MessageInv s) : MessageInv s.advance :=
  messageInv_of_reached s.phase rfl h.legalPhase h.inRange ((h.reached rfl).of_sameMessage rfl)
    (h.inPhase rfl)

/-- A drop ends the message. -/
theorem MessageInv.takeDrop (h : MessageInv s) (c : DropCause) : MessageInv (takeDrop c s) :=
  messageInv_of_idle rfl h.inRange

/-! ## Capture -/

theorem rawWritten_of_write {i : Nat} {b : Bit} (h : t.raw = Memory.write s.raw i b) :
    t.rawWritten i ∧ ∀ a, s.rawWritten a → t.rawWritten a := by
  have hnew : t.rawWritten i := by rw [State.rawWritten, h, Memory.read?_write_same]; rfl
  refine ⟨hnew, fun a ha => ?_⟩
  by_cases hai : a = i
  · exact hai ▸ hnew
  · rwa [State.rawWritten, h, Memory.read?_write_other _ _ hai]

/-- After a sample the message has at least one, and all of them are in `RAW`. -/
theorem messageInv_afterSample {last : Bool} (hp : t.phase = phaseAfterSample last)
    (hrange : InRange t) (hcaptured : 1 ≤ t.n ∧ ∀ i < t.n, t.rawWritten i) : MessageInv t := by
  have hone : Reached 1 t := fun j hj => by interval_cases j <;> [exact trivial; exact hcaptured]
  cases last
  · exact messageInv_of_reached phCapture hp (by decide) hrange hone trivial
  · exact messageInv_of_reached phGuard hp (by decide) hrange (hone.succ trivial) trivial

theorem messageInv_captureFirst (h : MessageInv s) (ht : execCaptureFirst s = .next t) :
    MessageInv t := by
  obtain ⟨-, rfl⟩ | ⟨-, rfl⟩ := execCaptureFirst_next_inv ht
  · obtain ⟨-, hk, hlayout⟩ := h.inRange
    refine messageInv_afterSample rfl ⟨rawCap_pos, hk, hlayout⟩ ⟨le_rfl, fun i (hi : i < 1) => ?_⟩
    obtain rfl := Nat.lt_one_iff.1 hi
    exact (rawWritten_of_write (s := s) rfl).1
  · exact h

theorem messageInv_capture (h : MessageInv s) (hp : s.phase = phCapture)
    (ht : execCapture s = .next t) : MessageInv t := by
  obtain ⟨-, hk, hlayout⟩ := h.inRange
  obtain ⟨hpos, hwritten⟩ : 1 ≤ s.n ∧ ∀ i < s.n, s.rawWritten i := h.reached hp 1 le_rfl
  have hcap := rawCap_pos
  obtain ⟨-, hn, rfl⟩ | ⟨-, hn, rfl⟩ | ⟨-, rfl⟩ := execCapture_next_inv ht
  · obtain ⟨hnew, hold⟩ := rawWritten_of_write (s := s) (i := s.n) (b := bitOf s.pins.sSample)
      (t := s.storeRaw s.n (bitOf s.pins.sSample)) rfl
    refine messageInv_afterSample rfl ⟨min_le_right .., hk, hlayout⟩
      ⟨le_min (by omega) hcap, fun i (hi : i < min (s.n + 1) rawCap) => ?_⟩
    obtain rfl | hlt : i = s.n ∨ i < s.n := by omega
    · exact hnew
    · exact hold i (hwritten i hlt)
  · exact messageInv_afterSample rfl ⟨min_le_right .., hk, hlayout⟩
      ⟨le_min (by omega) hcap, fun i (hi : i < min (s.n + 1) rawCap) => hwritten i (by omega)⟩
  · exact h

/-! ## The frame parser -/

theorem messageInv_guard (h : MessageInv s) (hp : s.phase = phGuard) (ht : execGuard s = .next t) :
    MessageInv t := by
  obtain ⟨-, rfl⟩ | ⟨hn, rfl⟩ := execGuard_next_inv ht
  · exact h.takeDrop _
  · exact messageInv_of_reached phGen rfl (by decide) h.inRange
      (Reached.succ ((h.reached hp).of_sameMessage rfl) hn) trivial

/-- Either generation starts demapping at byte 0, with the stride of the marker. -/
theorem messageInv_gen (h : MessageInv s) (hp : s.phase = phGen) {gen : Bit} {stride : BitVec 4}
    (hgen : gen = s.rawCell 0) (hstride : stride = strideOf gen) :
    MessageInv { s with gen := gen, stride := stride, k := 0, phase := phHdr } := by
  obtain ⟨hn, -, hlayout⟩ := h.inRange
  refine messageInv_of_reached phHdr rfl (by decide) ⟨hn, Nat.zero_le _, hlayout⟩
    (Reached.succ (p := 3) (fun j hj => ?_) ⟨hgen, hstride⟩) ⟨show 0 < hdrLen by decide, nofun⟩
  have hold := h.reached hp j hj
  interval_cases j <;> exact hold

/-- A demapped byte is one more that `DEC` holds of the captured message. -/
theorem decodedUpTo_demapped (h : s.decodedUpTo s.k) (hn : s.bitCursor + 7 < s.n) (next : Phase) :
    (s.demapped next).decodedUpTo (s.k + 1) := by
  obtain ⟨hcell, hother⟩ := decCell_of_write (s := s) (t := s.demapped next) rfl
  intro i hi
  obtain rfl | hlt : i = s.k ∨ i < s.k := by omega
  · exact ⟨by simp [State.decWritten, State.demapped], hn, hcell⟩
  · obtain ⟨hwritten, hindex, hbyte⟩ := h i hlt
    refine ⟨?_, hindex, (hother i hlt.ne).trans hbyte⟩
    simpa [State.decWritten, State.demapped, Memory.read?_write_other _ _ hlt.ne] using hwritten

theorem inRange_demapped (h : InRange s) (hk : s.k < decCap) (next : Phase) :
    InRange (s.demapped next) := by
  obtain ⟨hn, -, hlayout⟩ := h
  exact ⟨hn, hk, hlayout⟩

theorem messageInv_demapHdr (h : MessageInv s) (hp : s.phase = phHdr)
    (ht : execDemapHdr s = .next t) : MessageInv t := by
  obtain ⟨-, rfl⟩ | ⟨hn, -, hcell, rfl⟩ := execDemapHdr_next_inv ht
  · exact h.takeDrop _
  · obtain ⟨hk, hbytes⟩ : s.k < hdrLen ∧ s.decodedUpTo s.k := h.inPhase hp
    have hrange := inRange_demapped h.inRange hcell
    have hdone := decodedUpTo_demapped hbytes hn
    have hreached : ∀ next, Reached 4 (s.demapped next) := fun next j hj => by
      have hold := h.reached hp j hj
      interval_cases j <;> exact hold
    by_cases hlast : s.k + 1 = hdrLen
    · rw [if_pos hlast]
      exact messageInv_of_reached phHparse rfl (by decide) (hrange phHparse)
        ((hreached _).succ trivial) ⟨hlast, hlast ▸ hdone _⟩
    · rw [if_neg hlast]
      exact messageInv_of_reached phHdr rfl (by decide) (hrange phHdr) (hreached _)
        ⟨show s.k + 1 < hdrLen by omega, hdone _⟩

theorem messageInv_hdrParse (h : MessageInv s) (hp : s.phase = phHparse) :
    MessageInv s.withHeader := by
  refine messageInv_of_reached phLchk rfl (by decide) h.inRange
    (Reached.succ (p := 5) (fun j hj => ?_) ⟨rfl, rfl⟩) (h.inPhase hp)
  have hold := h.reached hp j hj
  interval_cases j <;> exact hold

theorem messageInv_lchk (h : MessageInv s) (hp : s.phase = phLchk) (ht : execLchk s = .next t) :
    MessageInv t := by
  obtain ⟨-, rfl⟩ | ⟨hn, rfl⟩ := execLchk_next_inv ht
  · exact h.takeDrop _
  · obtain ⟨hk, hbytes⟩ : s.k = hdrLen ∧ s.decodedUpTo hdrLen := h.inPhase hp
    have hreached : ∀ next, Reached 7 (s.toPhase next) := fun next =>
      Reached.succ ((h.reached hp).of_sameMessage rfl) hn
    by_cases hzero : s.plen = 0
    · have hend : s.decLen = hdrLen := by simp [State.decLen, hzero]
      rw [if_pos hzero]
      exact messageInv_of_reached phCrci rfl (by decide) h.inRange
        ((hreached phCrci).succ (show s.decodedUpTo s.decLen from hend ▸ hbytes)) trivial
    · have hbody : s.plen.toNat ≠ 0 := fun h0 => hzero (BitVec.eq_of_toNat_eq h0)
      have hmore : s.k < s.decLen := by
        rw [hk, State.decLen]
        omega
      rw [if_neg hzero]
      exact messageInv_of_reached phPay rfl (by decide) h.inRange (hreached phPay)
        ⟨hk.ge, hmore, show s.decodedUpTo s.k from hk ▸ hbytes⟩

/-- Demapping the body leaves the header's bytes as they were. -/
theorem established_demapped_body {j : Nat} (hj : j ≤ 7) (hk : hdrLen ≤ s.k) (next : Phase)
    (h : Established j s) : Established j (s.demapped next) := by
  obtain ⟨-, hother⟩ := decCell_of_write (s := s) (t := s.demapped next) rfl
  have hcell : ∀ a < hdrLen, (s.demapped next).decCell a = s.decCell a :=
    fun a ha => hother a (by omega)
  match j with
  | 0x6 =>
    obtain ⟨htype, hlen⟩ := h
    refine ⟨htype.trans (hcell 1 (by decide)).symm, hlen.trans (dec16_congr fun i hi => ?_).symm⟩
    exact hcell _ (Nat.add_lt_add_left hi 2)
  | 0x0 | 0x1 | 0x2 | 0x3 | 0x4 | 0x5 | 0x7 => exact h
  | _ + 0x8 => omega

theorem messageInv_demapPay (h : MessageInv s) (hp : s.phase = phPay)
    (ht : execDemapPay s = .next t) : MessageInv t := by
  obtain ⟨-, rfl⟩ | ⟨hn, -, hcell, rfl⟩ := execDemapPay_next_inv ht
  · exact h.takeDrop _
  · obtain ⟨hk, hmore, hbytes⟩ : hdrLen ≤ s.k ∧ s.k < s.decLen ∧ s.decodedUpTo s.k :=
      h.inPhase hp
    have hrange := inRange_demapped h.inRange hcell
    have hdone := decodedUpTo_demapped hbytes hn
    have hreached : ∀ next, Reached 7 (s.demapped next) := fun next j hj =>
      established_demapped_body hj hk next (h.reached hp j hj)
    by_cases hlast : s.k + 1 = s.decLen
    · have hbody : (s.demapped phCrci).decodedUpTo s.decLen := hlast ▸ hdone _
      rw [if_pos hlast]
      exact messageInv_of_reached phCrci rfl (by decide) (hrange phCrci)
        ((hreached phCrci).succ hbody) trivial
    · rw [if_neg hlast]
      exact messageInv_of_reached phPay rfl (by decide) (hrange phPay) (hreached _)
        ⟨hk.trans (Nat.le_succ _), show s.k + 1 < s.decLen by omega, hdone _⟩

/-! ## The CRC stage -/

/-- The registers of the CRC stage written, with the bytes of the message as they were. -/
theorem Reached.withCrc (h : Reached p s) (hp : p ≤ 9) (crc : Half) (k : Nat) (next : Phase) :
    Reached p { s with crc := crc, k := k, phase := next } := by
  intro j hj
  have hold := h j hj
  have hlt := hj.trans hp
  interval_cases j <;> exact hold

theorem messageInv_crcInit (h : MessageInv s) (hp : s.phase = phCrci)
    (ht : execCrcInit s = .next t) : MessageInv t := by
  obtain ⟨-, rfl⟩ | ⟨hlen, rfl⟩ := execCrcInit_next_inv ht
  · exact h.takeDrop _
  · obtain ⟨hn, -, hlayout⟩ := h.inRange
    have hcell : hdrLen ≤ decCap := by decide
    have hreached : ∀ next, Reached 9 { s with crc := s.cfg.crcInit, k := hdrLen, phase := next } :=
      fun next => Reached.succ ((h.reached hp).withCrc (by decide) _ _ _) hlen
    have hseed : s.cfg.crcInit = crc16 s.cfg.crcInit (s.decBytes hdrLen 0) := (crc16_nil _).symm
    by_cases hempty : s.plen.toNat = 2
    · rw [if_pos hempty]
      refine messageInv_of_reached phCrcc rfl (by decide) ⟨hn, hcell, hlayout⟩
        ((hreached phCrcc).succ ?_) trivial
      show s.cfg.crcInit = crc16 s.cfg.crcInit (s.decBytes hdrLen (s.plen.toNat - 2))
      rwa [hempty]
    · rw [if_neg hempty]
      exact messageInv_of_reached phCrcb rfl (by decide) ⟨hn, hcell, hlayout⟩
        (hreached phCrcb) ⟨le_rfl, show 4 < s.plen.toNat + 2 by omega, hseed⟩

theorem messageInv_crcByte (h : MessageInv s) (hp : s.phase = phCrcb)
    (ht : execCrcByte s = .next t) : MessageInv t := by
  obtain ⟨hcell, rfl⟩ := execCrcByte_next_inv ht
  obtain ⟨hn, -, hlayout⟩ := h.inRange
  obtain ⟨hlow, hhigh, hcrc⟩ : hdrLen ≤ s.k ∧ s.k < s.plen.toNat + 2 ∧
    s.crc = crc16 s.cfg.crcInit (s.decBytes hdrLen (s.k - hdrLen)) := h.inPhase hp
  have hreached : ∀ next, Reached 9
      { s with crc := foldCrcByte s.crc (s.decCell s.k), k := s.k + 1, phase := next } :=
    fun next => (h.reached hp).withCrc (by decide) _ _ _
  have hfolded : foldCrcByte s.crc (s.decCell s.k) =
      crc16 s.cfg.crcInit (s.decBytes hdrLen (s.k + 1 - hdrLen)) := by
    rw [Nat.sub_add_comm hlow, decBytes_succ, crc16_append_one, ← hcrc, Nat.add_sub_cancel' hlow]
  by_cases hlast : s.k + 1 = s.plen.toNat + 2
  · have hcount : s.k + 1 - hdrLen = s.plen.toNat - 2 := by rw [hlast, hdrLen]; omega
    rw [if_pos hlast]
    exact messageInv_of_reached phCrcc rfl (by decide) ⟨hn, hcell, hlayout⟩
      ((hreached phCrcc).succ (hfolded.trans (by rw [hcount]; rfl))) trivial
  · rw [if_neg hlast]
    exact messageInv_of_reached phCrcb rfl (by decide) ⟨hn, hcell, hlayout⟩ (hreached phCrcb)
      ⟨hlow.trans (Nat.le_succ _), show s.k + 1 < s.plen.toNat + 2 by omega, hfolded⟩

theorem messageInv_crcCmp (h : MessageInv s) (hp : s.phase = phCrcc)
    (ht : execCrcCmp s = .next t) : MessageInv t := by
  cases ht
  refine messageInv_of_reached phExtract rfl (by decide) h.inRange
    (Reached.succ (p := 0xA) (fun j hj => ?_) rfl) trivial
  have hold := h.reached hp j hj
  interval_cases j <;> exact hold

/-! ## Extraction, FILTER and EMIT -/

/-- The fields written, with all that was established before as it was. -/
theorem Reached.withFields (h : Reached 0xB s) (layout : BitVec 2)
    (meterId meterId2 upTime : Word) :
    Reached 0xB { s with upTime := upTime, meterId := meterId, meterId2 := meterId2,
                         layout := layout, phase := phFilter } := by
  intro j hj
  have hold := h j hj
  interval_cases j <;> exact hold

theorem messageInv_extractL55 (h : MessageInv s) (hp : s.phase = phExtract) (htype : s.ptype = t55)
    (hlen : s.plen = l55Len) (ht : execExtractL55 s = .next t) : MessageInv t := by
  have hbody : 24 ≤ s.plen.toNat := by rw [hlen]; decide
  obtain ⟨hn, hk, -⟩ := h.inRange
  cases (execExtractL55_of_le hbody).symm.trans ht
  exact messageInv_of_reached phFilter rfl (by decide) ⟨hn, hk, show layoutL55 ≠ 3 by decide⟩
    (Reached.succ ((h.reached hp).withFields _ _ _ _) (.inl ⟨rfl, htype, hlen, rfl, rfl, rfl⟩))
    trivial

theorem messageInv_extractLd5 (h : MessageInv s) (hp : s.phase = phExtract) (htype : s.ptype = td5)
    (ht : execExtractLd5 s = .next t) : MessageInv t := by
  obtain hlen | hlen := le_or_gt 9 s.plen.toNat
  · obtain ⟨hn, hk, -⟩ := h.inRange
    cases (execExtractLd5_of_le hlen).symm.trans ht
    exact messageInv_of_reached phFilter rfl (by decide) ⟨hn, hk, show layoutLd5 ≠ 3 by decide⟩
      (Reached.succ ((h.reached hp).withFields _ _ _ _) (.inr ⟨rfl, htype, hlen, rfl, rfl, rfl⟩))
      trivial
  · cases (execExtractLd5_of_lt hlen).symm.trans ht
    exact h.takeDrop _

theorem messageInv_filter (h : MessageInv s) (hp : s.phase = phFilter)
    (ht : execFilter s = .next t) : MessageInv t := by
  obtain ⟨haccepted, rfl⟩ | ⟨-, rfl⟩ := execFilter_next_inv ht
  · obtain ⟨hn, -, hlayout⟩ := h.inRange
    have hreached : Reached 0xC { s with accept := 1, k := 0, phase := phEmit } :=
      (h.reached hp).of_sameMessage rfl
    exact messageInv_of_reached phEmit rfl (by decide) ⟨hn, Nat.zero_le _, hlayout⟩
      (hreached.succ trivial) ⟨rfl, haccepted, Nat.add_pos_left (by decide) _⟩
  · exact messageInv_of_idle rfl h.inRange

theorem messageInv_emitByte (h : MessageInv s) (hp : s.phase = phEmit)
    (ht : execEmitByte s = .next t) : MessageInv t := by
  obtain ⟨-, -, -, rfl⟩ | ⟨-, hcell, hmore, rfl⟩ | ⟨-, rfl⟩ := execEmitByte_next_inv ht
  · exact messageInv_of_idle rfl h.inRange
  · obtain ⟨hn, -, hlayout⟩ := h.inRange
    obtain ⟨haccept, haccepted, hk⟩ : s.accept = 1 ∧ s.accepted ∧ s.k < s.decLen := h.inPhase hp
    exact messageInv_of_reached phEmit rfl (by decide) ⟨hn, hcell, hlayout⟩
      ((h.reached hp).of_sameMessage rfl) ⟨haccept, haccepted, show s.k + 1 < s.decLen by omega⟩
  · exact h

end

/-! ## The step -/

/-- In EXTRACT the type and the length select the operation (R130). -/
theorem decode_extract {s : State} (hrst : s.pins.rst = false) (hp : s.phase = phExtract) :
    decode s.selector =
      .ok (if s.ptype = t55 ∧ s.plen = l55Len then .extractL55
        else if s.ptype = td5 then .extractLd5 else .extractReject) := by
  rw [decode, State.selector, hrst, dkey_extract hp]
  exact decodeKey_extract s.ptype s.plen

/-- In GEN the marker selects the operation (R100, R101). -/
theorem decode_gen {s : State} (hrst : s.pins.rst = false) (hp : s.phase = phGen) :
    decode s.selector = .ok (if s.rawCell 0 = 0 then .genG4 else .genG5) := by
  rw [decode, State.selector, hrst, dkey_gen hp]
  exact decodeKey_gen _

section
variable {s t : State}

theorem rst_of_decode {i : Instr} {p : Phase} (h : decode s.selector = .ok i)
    (hi : i.phase? = some p) : s.pins.rst = false := by
  obtain ⟨-, rfl⟩ | ⟨hrst, -⟩ := phase?_of_decode h
  · cases hi
  · exact hrst

theorem extractL55_of_decode (h : decode s.selector = .ok .extractL55) :
    s.ptype = t55 ∧ s.plen = l55Len := by
  rw [decode_extract (rst_of_decode h rfl) (phase_of_decode h rfl)] at h
  split_ifs at h with h55
  · exact h55
  · cases h
  · cases h

theorem extractLd5_of_decode (h : decode s.selector = .ok .extractLd5) : s.ptype = td5 := by
  rw [decode_extract (rst_of_decode h rfl) (phase_of_decode h rfl)] at h
  split_ifs at h with h55 hd5
  · cases h
  · exact hd5
  · cases h

theorem extractReject_of_decode (h : decode s.selector = .ok .extractReject) :
    ¬ (s.ptype = t55 ∧ s.plen = l55Len) ∧ s.ptype ≠ td5 := by
  rw [decode_extract (rst_of_decode h rfl) (phase_of_decode h rfl)] at h
  split_ifs at h with h55 hd5
  · cases h
  · cases h
  · exact ⟨h55, hd5⟩

theorem marker_of_decode_genG4 (h : decode s.selector = .ok .genG4) : s.rawCell 0 = 0 := by
  rw [decode_gen (rst_of_decode h rfl) (phase_of_decode h rfl)] at h
  split_ifs at h with hzero
  · exact hzero
  · cases h

theorem marker_of_decode_genG5 (h : decode s.selector = .ok .genG5) : s.rawCell 0 = 1 := by
  rw [decode_gen (rst_of_decode h rfl) (phase_of_decode h rfl)] at h
  split_ifs at h with hzero
  · cases h
  · exact (BitVec.eq_zero_or_eq_one _).resolve_left hzero

/-- Every selected operation keeps the invariant. -/
theorem exec_messageInv {i : Instr} (h : MessageInv s)
    (hdec : decode s.selector = .ok i) (ht : exec i s = .next t) : MessageInv t := by
  have hphase : ∀ {p : Phase}, i.phase? = some p → s.phase = p := phase_of_decode hdec
  cases i with
  | captureFirst => exact messageInv_captureFirst h ht
  | capture => exact messageInv_capture h (hphase rfl) ht
  | guard => exact messageInv_guard h (hphase rfl) ht
  | genG4 =>
    cases ht
    exact messageInv_gen h (hphase rfl) (marker_of_decode_genG4 hdec).symm rfl
  | genG5 =>
    cases ht
    exact messageInv_gen h (hphase rfl) (marker_of_decode_genG5 hdec).symm rfl
  | demapHdr => exact messageInv_demapHdr h (hphase rfl) ht
  | hdrParse =>
    cases ht
    exact messageInv_hdrParse h (hphase rfl)
  | lchk => exact messageInv_lchk h (hphase rfl) ht
  | demapPay => exact messageInv_demapPay h (hphase rfl) ht
  | crcInit => exact messageInv_crcInit h (hphase rfl) ht
  | crcByte => exact messageInv_crcByte h (hphase rfl) ht
  | crcCmp => exact messageInv_crcCmp h (hphase rfl) ht
  | extractL55 =>
    obtain ⟨htype, hlen⟩ := extractL55_of_decode hdec
    exact messageInv_extractL55 h (hphase rfl) htype hlen ht
  | extractLd5 => exact messageInv_extractLd5 h (hphase rfl) (extractLd5_of_decode hdec) ht
  | filter => exact messageInv_filter h (hphase rfl) ht
  | emitByte => exact messageInv_emitByte h (hphase rfl) ht
  | extractReject | drop cause =>
    cases ht
    exact h.takeDrop _
  | reset =>
    cases ht
    exact messageInv_of_idle rfl h.inRange

end

/-- Settles O38: `exec_messageInv` and `exec_memoryOk`, moving to the next edge keeping both. -/
theorem stepKeepsInvariant : Obligations.StepKeepsInvariant := by
  intro s t hinv hstep
  obtain ⟨i, u, hdec, hexec, rfl⟩ := step_next_inv hstep
  have hmemory : MemoryOk u := exec_memoryOk hinv.memory hexec
  exact ⟨⟨hmemory.raw, hmemory.dec⟩, (exec_messageInv hinv.message hdec hexec).advance⟩

/-- Settles O36: in IDLE the invariant asks for ranges and canonical buffers alone. -/
theorem resetSatisfiesInvariant : Obligations.ResetSatisfiesInvariant :=
  fun cfg => ⟨⟨reset_raw_wf cfg, reset_dec_wf cfg⟩,
    messageInv_of_idle rfl ⟨Nat.zero_le _, Nat.zero_le _, show layoutNone ≠ 3 by decide⟩⟩

/-- Settles O41: both registers stay inside their buffers, whose sizes fit (R9). -/
theorem countersFitTheirWidths : Obligations.CountersFitTheirWidths := by
  intro s hinv
  obtain ⟨hn, hk, -⟩ := hinv.message.inRange
  have hraw : rawCap < 2 ^ 20 := by decide
  have hdec : decCap < 2 ^ 17 := by decide
  exact ⟨hn.trans_lt hraw, hk, hk.trans_lt hdec, fun _ => (decLen_le_decCap s).trans_lt hdec⟩

end Sys2Proof.Machine
end

section
/-!
PROOF. Progress (spec/10_state.md section 7, spec/30_encoding.md section 4): a phase up to EMIT
selects an operation, and under the invariant no operation reaches past a buffer.
-/

namespace Sys2Proof.Machine

/-- A phase up to EMIT selects an operation (R88, R90). -/
theorem exists_decode {s : State} (hlegal : s.phase ≤ phEmit) :
    ∃ i, decode s.selector = .ok i := by
  cases hrst : s.pins.rst with
  | true => exact ⟨.reset, if_pos hrst⟩
  | false =>
    by_cases hgen : s.phase = phGen
    · exact ⟨_, decode_gen hrst hgen⟩
    by_cases hextract : s.phase = phExtract
    · exact ⟨_, decode_extract hrst hextract⟩
    have hrow : ∀ p : Phase, p ≠ phGen → p ≠ phExtract → p ≤ phEmit →
        (decodeKey (p ++ (0 : BitVec 24))).isOk = true := by decide
    have hok := hrow s.phase hgen hextract hlegal
    rw [decode, State.selector, hrst, dkey_of_phase hgen hextract]
    cases hi : decodeKey (s.phase ++ (0 : BitVec 24)) with
    | ok i => exact ⟨i, rfl⟩
    | error e =>
      rw [hi] at hok
      cases hok

/-- A choice answers a next state when both its branches do. -/
theorem exists_next_ite {c : Prop} [Decidable c] {a b : Host.Outcome State Fault Refusal}
    (ha : ∃ t, a = .next t) (hb : ∃ t, b = .next t) : ∃ t, (if c then a else b) = .next t := by
  split_ifs
  · exact ha
  · exact hb

/-- Inside the buffers DEMAP_BYTE decodes or drops. -/
theorem exists_next_demapOutcome {s : State} (next : Phase) (hn : s.n ≤ rawCap)
    (hk : s.k < decCap) : ∃ t, demapOutcome next s = .next t := by
  obtain hshort | hin := le_or_gt s.n (s.bitCursor + 7)
  · exact ⟨_, demapOutcome_drop next hshort⟩
  · exact ⟨_, demapOutcome_demapped next hin hn hk⟩

/-- Under the invariant the selected operation answers a next state. -/
theorem exists_exec_next {i : Instr} {s : State} (h : MessageInv s)
    (hdec : decode s.selector = .ok i) : ∃ t, exec i s = .next t := by
  have hphase : ∀ {p : Phase}, i.phase? = some p → s.phase = p := phase_of_decode hdec
  cases i with
  | captureFirst | guard | lchk | crcInit | extractLd5 => exact exists_next_ite ⟨_, rfl⟩ ⟨_, rfl⟩
  | capture =>
    rw [exec, execCapture_eq]
    exact exists_next_ite (exists_next_ite ⟨_, rfl⟩ ⟨_, rfl⟩) ⟨_, rfl⟩
  | extractL55 =>
    rw [exec, execExtractL55_eq]
    exact exists_next_ite (exists_next_ite ⟨_, rfl⟩ ⟨_, rfl⟩) ⟨_, rfl⟩
  | filter =>
    rw [exec, execFilter_eq]
    exact exists_next_ite ⟨_, rfl⟩ ⟨_, rfl⟩
  | demapHdr =>
    obtain ⟨hk, -⟩ := h.headerByte (hphase rfl)
    rw [exec, execDemapHdr_eq]
    exact exists_next_demapOutcome _ h.countBound (hk.trans (by decide))
  | demapPay =>
    obtain ⟨-, hk, -⟩ := h.bodyByte (hphase rfl)
    rw [exec, execDemapPay_eq]
    exact exists_next_demapOutcome _ h.countBound (hk.trans_le (decLen_le_decCap s))
  | crcByte =>
    obtain ⟨-, hk, -⟩ := h.crcRunning (hphase rfl)
    exact ⟨_, execCrcByte_of_lt (lt_decCap_of_lt_plen_add_two hk)⟩
  | emitByte =>
    obtain ⟨-, -, hk⟩ := h.emitting (hphase rfl)
    rw [exec, execEmitByte, if_neg (not_le.2 (hk.trans_le (decLen_le_decCap s)))]
    exact exists_next_ite (exists_next_ite ⟨_, rfl⟩ ⟨_, rfl⟩) ⟨_, rfl⟩
  | genG4 | genG5 | hdrParse | crcCmp | extractReject | reset | drop cause => exact ⟨_, rfl⟩

/-- Settles O39: a legal phase selects an operation, and `exists_exec_next` runs it. -/
theorem invariantStatesNeverFault : Obligations.InvariantStatesNeverFault := by
  intro s hinv
  obtain ⟨i, hi⟩ := exists_decode hinv.message.legalPhase
  obtain ⟨u, hu⟩ := exists_exec_next hinv.message hi
  exact ⟨u.advance, step_of_decode hi hu⟩

end Sys2Proof.Machine
end

section
/-!
PROOF. The invariant and the message-level function (spec/45_interface.md R158): the bytes that the
invariant has in `DEC` are those of the captured message, so what `decodeMessage` gives for it is
the stages' verdict.
-/

namespace Sys2Proof.Machine

section
variable {s u : State}

/-! ## The bytes of the captured message -/

/-- The state with `K` at the given byte; the message-level function does not read `K`. -/
def State.withK (s : State) (k : Nat) : State :=
  { s with k := k }

theorem messageBytes_of_decodedUpTo {count : Nat} (h : s.decodedUpTo count) :
    messageBytes s.samples s.stride.toNat 0 count = some (s.decBytes 0 count) := by
  refine messageBytes_zero_eq_some_iff.2 ⟨fun hpos => ?_, List.map_congr_left fun i hi => ?_⟩
  · obtain ⟨-, hlast, -⟩ := h (count - 1) (Nat.sub_one_lt_of_lt hpos)
    exact (Nat.succ_le_of_lt hlast).trans (samples_length s).ge
  · obtain ⟨-, hindex, hcell⟩ := h i (List.mem_range.1 hi)
    rw [Nat.zero_add, hcell]
    exact byteAtCursor_eq_spelledByte (s := s.withK i) hindex

/-- What lies in a range of phases lies in one that starts earlier. -/
theorem between_of_le {lo lo' hi : Phase} (h : s.between lo hi) (hle : lo' ≤ lo) :
    s.between lo' hi :=
  ⟨BitVec.le_trans hle h.1, h.2⟩

/-- From HDR on, bytes decoded under the invariant have the form that demapping keeps. -/
theorem MessageInv.demapping {count : Nat} (h : MessageInv s) (hp : s.between phHdr phEmit)
    (hbytes : s.decodedUpTo count) : Demapping (s.withK count) := by
  obtain ⟨hpos, -⟩ := h.captured (between_of_le hp (by decide))
  obtain ⟨hgen, hstride⟩ := h.generation hp
  refine ⟨h.countBound, ?_, messageBytes_of_decodedUpTo hbytes⟩
  show s.stride = strideOf (sampleBit s.samples 0)
  rw [hstride, hgen, sampleBit_samples hpos]

theorem decodedUpTo_of_le {a b : Nat} (h : s.decodedUpTo b) (hle : a ≤ b) : s.decodedUpTo a :=
  fun i hi => h i (hi.trans_le hle)

/-- From LCHK on the header's bytes are decoded. -/
theorem MessageInv.headerBytes (h : MessageInv s) (hp : s.between phLchk phEmit) :
    s.decodedUpTo hdrLen := by
  have hcases : ∀ p : Phase, phLchk ≤ p ∧ p ≤ phEmit →
      p = phLchk ∨ p = phPay ∨ phCrci ≤ p ∧ p ≤ phEmit := by decide
  obtain hlchk | hpay | hdone := hcases s.phase hp
  · exact (h.headerDone (between_of_phase hlchk (by decide))).2
  · obtain ⟨hk, -, hbytes⟩ := h.bodyByte hpay
    exact decodedUpTo_of_le hbytes hk
  · exact decodedUpTo_of_le (h.bodyDone hdone) (Nat.le_add_right ..)

theorem MessageInv.headerParsed (h : MessageInv s) (hp : s.between phLchk phEmit) :
    HeaderParsed s := by
  have hd := h.demapping (between_of_le hp (by decide)) (h.headerBytes hp)
  obtain ⟨htype, hlen⟩ := hd.header_cells rfl
  obtain ⟨hptype, hplen⟩ := h.header hp
  exact ⟨hptype.trans htype, hplen.trans hlen⟩

/-! ## The stages after the frame parser -/

/-- With the whole message decoded, its result is the verdict on the bytes in `DEC`. -/
theorem MessageInv.result_eq_verdict (h : MessageInv s) (hp : s.between phCrci phEmit) :
    s.result = s.verdict := by
  obtain ⟨hptype, hplen⟩ := h.headerParsed (between_of_le hp (by decide))
  have hd := h.demapping (between_of_le hp (by decide)) (h.bodyDone hp)
  exact hd.result_eq_verdict ⟨hptype, hplen⟩ rfl

theorem MessageInv.crcChecked (h : MessageInv s) (hp : s.between phExtract phEmit) :
    s.crcChecked := by
  have hlen := h.crcRoom (between_of_le hp (by decide))
  rw [State.crcChecked, messageCrcMatch_decBytes s hlen,
    ← h.crcDone (between_of_le hp (by decide))]
  exact h.crcFlag hp

/-- The registers hold the fields of the layout that the type and the length select. -/
theorem messageFields_of_fields (h : FieldsL55 s ∨ FieldsLd5 s) :
    messageFields (s.decBytes 0 s.decLen) s.ptype s.plen = some s.fields := by
  obtain h | h := h
  · have hend : off55Meter + 4 ≤ s.decLen := by rw [State.decLen, h.plen]; decide
    rw [messageFields_l55 h.ptype h.plen, be32At_decBytes s hend,
      be32At_decBytes s (le_trans (by decide) hend), State.fields, h.layout, h.meterId, h.meterId2,
      h.upTime]
  · have hend : offD5Meter + 4 ≤ s.decLen := Nat.add_le_add_left h.plen hdrLen
    rw [messageFields_ld5 h.ptype h.plen, be32At_decBytes s hend,
      be32At_decBytes s (le_trans (by decide) hend), State.fields, h.layout, h.meterId, h.meterId2,
      h.upTime]

/-- With the fields extracted the filter alone decides. -/
theorem MessageInv.result_of_fields (h : MessageInv s) (hp : s.between phFilter phEmit) :
    s.result = if s.accepted then some s.packet else none := by
  have hlen := h.crcRoom (between_of_le hp (by decide))
  rw [h.result_eq_verdict (between_of_le hp (by decide)),
    verdict_of_fields hlen (h.crcChecked (between_of_le hp (by decide)))
      (messageFields_of_fields (h.fields hp))]

/-- Settles O46: in EMIT the filter has accepted, so the result is the packet that the registers and
`DEC` hold, whose beats are those driven. -/
theorem emitOffersBeatOfDecodedPacket : Obligations.EmitOffersBeatOfDecodedPacket := by
  intro s hinv hp
  obtain ⟨-, haccepted, hk⟩ := hinv.message.emitting hp
  have hresult := hinv.message.result_of_fields (between_of_phase hp (by decide))
  rw [if_pos haccepted] at hresult
  have hcount : s.packet.bytes.length = s.decLen := decBytes_length ..
  exact ⟨s.packet, hresult, hcount, hk.trans_eq hcount.symm, driven_eq_beat hk⟩

end

end Sys2Proof.Machine
end

section
/-!
PROOF. What an operation does with a captured message (spec/45_interface.md R157, R158,
spec/70_reset_and_hazards.md R202): from GUARD to FILTER it either drops the message, and then the
message-level function gives none, or does one operation of the work that the message takes.
-/

namespace Sys2Proof.Machine

/-! ## The work done on a message -/

/-- The number of operations since GUARD was entered, in the phases from GUARD to EMIT (R202). -/
def State.workDone (s : State) : Nat :=
  match s.phase.toNat with
  | 0x3 => 1
  | 0x4 => 2 + s.k
  | 0x5 => 6
  | 0x6 => 7
  | 0x7 => 4 + s.k
  | 0x8 => 8 + s.plen.toNat
  | 0x9 => 5 + s.plen.toNat + s.k
  | 0xA => 7 + 2 * s.plen.toNat
  | 0xB => 8 + 2 * s.plen.toNat
  | 0xC => 9 + 2 * s.plen.toNat
  | 0xD => 10 + 2 * s.plen.toNat
  | _ => 0

/-- The work of R202 on a message whose header says `PLEN`. -/
def State.workBound (s : State) : Nat :=
  10 + 2 * s.plen.toNat

/-- The header's bytes are decoded, and `PLEN` is the length in them. -/
def HeaderDecoded (s : State) : Prop :=
  s.decodedUpTo hdrLen ∧ s.plen = s.dec16 2

/-- What R202 says of the state in which the processing of a message ends, after `done`
operations. -/
def Finished (done : Nat) (s : State) : Prop :=
  s.phase = phIdle ∧ done ≤ 6 ∨
    HeaderDecoded s ∧ done ≤ s.workBound ∧
      (s.phase = phIdle ∨ s.phase = phEmit ∧ done = s.workBound)

/-- A message dropped on the way from `s` to `u`, within the bound of R202 and with a cause, where
the message-level function gives none. -/
structure Dropped (s u : State) : Prop where
  phase    : u.phase = phIdle
  cause    : u.dropCause ≠ .none
  result   : s.result = none
  finished : Finished (s.workDone + 1) u

/-- A message taken one operation further. -/
structure Onward (s u : State) : Prop where
  phase : u.between phGen phEmit
  work  : u.workDone = s.workDone + 1

section
variable {s u : State}

/-- The work done, read off with the phase known. -/
theorem workDone_of_phase {p : Phase} (hp : s.phase = p) :
    s.workDone = (s.toPhase p).workDone := by
  subst hp
  rfl

theorem MessageInv.headerDecoded (h : MessageInv s) (hp : s.between phLchk phEmit) :
    HeaderDecoded s :=
  ⟨h.headerBytes hp, (h.header hp).2⟩

/-- A drop before HDR_PARSE. -/
theorem dropped_in_header {c : DropCause} (hc : c ≠ .none) (hwork : s.workDone + 1 ≤ 6)
    (hresult : s.result = none) : Dropped s (takeDrop c s) :=
  ⟨rfl, hc, hresult, .inl ⟨rfl, hwork⟩⟩

/-- A drop after HDR_PARSE, which leaves the header as it was. -/
theorem dropped_after_header {c : DropCause} (h : MessageInv s) (hp : s.between phLchk phEmit)
    (hc : c ≠ .none) (hwork : s.workDone + 1 ≤ s.workBound) (hresult : s.result = none) :
    Dropped s (takeDrop c s) :=
  ⟨rfl, hc, hresult, .inr ⟨h.headerDecoded hp, hwork, .inl rfl⟩⟩

theorem onward_of_phase (p : Phase) (hp : u.phase = p) (hrange : phGen ≤ p ∧ p ≤ phEmit)
    (hwork : u.workDone = s.workDone + 1) : Onward s u :=
  ⟨between_of_phase hp hrange, hwork⟩

/-! ## The frame parser -/

theorem guard_dropped_or_onward (hp : s.phase = phGuard) (hu : execGuard s = .next u) :
    Dropped s u ∨ Onward s u := by
  have hwork : s.workDone = 0 := workDone_of_phase hp
  obtain ⟨hn, rfl⟩ | ⟨-, rfl⟩ := execGuard_next_inv hu
  · exact .inl (dropped_in_header (by decide) (by omega)
      (decodeMessage_of_short s.token s.cfg ((samples_length s).trans_lt hn)))
  · refine .inr (onward_of_phase phGen rfl (by decide) ?_)
    rw [hwork]
    rfl

theorem demapHdr_dropped_or_onward (h : MessageInv s) (hp : s.phase = phHdr)
    (hu : execDemapHdr s = .next u) : Dropped s u ∨ Onward s u := by
  have hwork : s.workDone = 2 + s.k := workDone_of_phase hp
  obtain ⟨hk, hbytes⟩ := h.headerByte hp
  obtain ⟨hn, rfl⟩ | ⟨-, -, -, rfl⟩ := execDemapHdr_next_inv hu
  · have hd : Demapping s := h.demapping (between_of_phase hp (by decide)) hbytes
    unfold hdrLen at hk
    exact .inl (dropped_in_header (by decide) (by omega)
      (hd.result_of_outOfRange hn (hk.trans_le (Nat.le_add_right ..))))
  · by_cases hlast : s.k + 1 = hdrLen
    · rw [if_pos hlast]
      refine .inr (onward_of_phase phHparse rfl (by decide) ?_)
      show 6 = s.workDone + 1
      unfold hdrLen at hlast
      omega
    · rw [if_neg hlast]
      refine .inr (onward_of_phase phHdr rfl (by decide) ?_)
      show 2 + (s.k + 1) = s.workDone + 1
      omega

theorem lchk_dropped_or_onward (h : MessageInv s) (hp : s.phase = phLchk)
    (hu : execLchk s = .next u) : Dropped s u ∨ Onward s u := by
  have hwork : s.workDone = 7 := workDone_of_phase hp
  have hbetween : s.between phLchk phEmit := between_of_phase hp (by decide)
  obtain ⟨hk, hbytes⟩ := h.headerDone (between_of_phase hp (by decide))
  obtain ⟨hn, rfl⟩ | ⟨-, rfl⟩ := execLchk_next_inv hu
  · have hd : Demapping (s.withK hdrLen) := h.demapping (between_of_le hbetween (by decide)) hbytes
    refine .inl (dropped_after_header h hbetween (by decide) ?_ ?_)
    · rw [hwork, State.workBound]
      omega
    · obtain ⟨hptype, hplen⟩ := h.headerParsed hbetween
      exact hd.result_of_le_plen ⟨hptype, hplen⟩ hn
  · by_cases hzero : s.plen = 0
    · rw [if_pos hzero]
      refine .inr (onward_of_phase phCrci rfl (by decide) ?_)
      show 8 + s.plen.toNat = s.workDone + 1
      rw [hwork, hzero]
      rfl
    · rw [if_neg hzero]
      refine .inr (onward_of_phase phPay rfl (by decide) ?_)
      show 4 + s.k = s.workDone + 1
      rw [hwork, hk]
      rfl

theorem demapPay_dropped_or_onward (h : MessageInv s) (hp : s.phase = phPay)
    (hu : execDemapPay s = .next u) : Dropped s u ∨ Onward s u := by
  have hwork : s.workDone = 4 + s.k := workDone_of_phase hp
  have hbetween : s.between phLchk phEmit := between_of_phase hp (by decide)
  have hend : s.decLen = 4 + s.plen.toNat := rfl
  obtain ⟨-, hk, hbytes⟩ := h.bodyByte hp
  obtain ⟨hn, rfl⟩ | ⟨-, -, -, rfl⟩ := execDemapPay_next_inv hu
  · have hd : Demapping s := h.demapping (between_of_le hbetween (by decide)) hbytes
    refine .inl (dropped_after_header h hbetween (by decide) ?_ ?_)
    · rw [hwork, State.workBound]
      omega
    · exact hd.result_of_outOfRange hn ((h.headerParsed hbetween).lt_of_lt_decLen hk)
  · by_cases hlast : s.k + 1 = s.decLen
    · rw [if_pos hlast]
      refine .inr (onward_of_phase phCrci rfl (by decide) ?_)
      show 8 + s.plen.toNat = s.workDone + 1
      omega
    · rw [if_neg hlast]
      refine .inr (onward_of_phase phPay rfl (by decide) ?_)
      show 4 + (s.k + 1) = s.workDone + 1
      omega

/-! ## The CRC stage -/

theorem crcInit_dropped_or_onward (h : MessageInv s) (hp : s.phase = phCrci)
    (hu : execCrcInit s = .next u) : Dropped s u ∨ Onward s u := by
  have hwork : s.workDone = 8 + s.plen.toNat := workDone_of_phase hp
  obtain ⟨hlen, rfl⟩ | ⟨hlen, rfl⟩ := execCrcInit_next_inv hu
  · refine .inl (dropped_after_header h (between_of_phase hp (by decide)) (by decide) ?_ ?_)
    · rw [hwork, State.workBound]
      omega
    · rw [h.result_eq_verdict (between_of_phase hp (by decide))]
      exact verdict_of_noCrcRoom hlen
  · by_cases hempty : s.plen.toNat = 2
    · rw [if_pos hempty]
      refine .inr (onward_of_phase phCrcc rfl (by decide) ?_)
      show 7 + 2 * s.plen.toNat = s.workDone + 1
      omega
    · rw [if_neg hempty]
      refine .inr (onward_of_phase phCrcb rfl (by decide) ?_)
      show 5 + s.plen.toNat + 4 = s.workDone + 1
      omega

theorem crcByte_onward (hp : s.phase = phCrcb) (hu : execCrcByte s = .next u) : Onward s u := by
  have hwork : s.workDone = 5 + s.plen.toNat + s.k := workDone_of_phase hp
  obtain ⟨-, rfl⟩ := execCrcByte_next_inv hu
  by_cases hlast : s.k + 1 = s.plen.toNat + 2
  · rw [if_pos hlast]
    refine onward_of_phase phCrcc rfl (by decide) ?_
    show 7 + 2 * s.plen.toNat = s.workDone + 1
    omega
  · rw [if_neg hlast]
    refine onward_of_phase phCrcb rfl (by decide) ?_
    show 5 + s.plen.toNat + (s.k + 1) = s.workDone + 1
    omega

/-! ## Extraction and FILTER -/

/-- Extraction without a layout drops a message that has no packet. -/
theorem dropped_in_extract {c : DropCause} (h : MessageInv s) (hp : s.phase = phExtract)
    (hc : c ≠ .none) (h55 : ¬ (s.ptype = t55 ∧ s.plen = l55Len))
    (hd5 : s.ptype = td5 → s.plen.toNat < 9) : Dropped s (takeDrop c s) := by
  have hwork : s.workDone = 8 + 2 * s.plen.toNat := workDone_of_phase hp
  refine dropped_after_header h (between_of_phase hp (by decide)) hc ?_ ?_
  · rw [hwork, State.workBound]
    omega
  · rw [h.result_eq_verdict (between_of_phase hp (by decide))]
    exact verdict_of_noLayout h55 hd5

/-- Fields extracted, in either layout. -/
theorem onward_to_filter (hp : s.phase = phExtract) (hu : u.phase = phFilter)
    (hlen : u.plen = s.plen) : Onward s u := by
  refine onward_of_phase phFilter hu (by decide) ?_
  rw [workDone_of_phase hp, workDone_of_phase hu]
  show 9 + 2 * u.plen.toNat = 8 + 2 * s.plen.toNat + 1
  rw [hlen]
  omega

theorem extractLd5_dropped_or_onward (h : MessageInv s) (hp : s.phase = phExtract)
    (htype : s.ptype = td5) (hu : execExtractLd5 s = .next u) : Dropped s u ∨ Onward s u := by
  obtain hlen | hlen := le_or_gt 9 s.plen.toNat
  · cases (execExtractLd5_of_le hlen).symm.trans hu
    exact .inr (onward_to_filter hp rfl rfl)
  · have hnot55 : ¬ (s.ptype = t55 ∧ s.plen = l55Len) := fun ⟨h55, _⟩ =>
      absurd (htype.symm.trans h55) (by decide)
    cases (execExtractLd5_of_lt hlen).symm.trans hu
    exact .inl (dropped_in_extract h hp (by decide) hnot55 fun _ => hlen)

theorem filter_dropped_or_onward (h : MessageInv s) (hp : s.phase = phFilter)
    (hu : execFilter s = .next u) : Dropped s u ∨ Onward s u := by
  have hwork : s.workDone = 9 + 2 * s.plen.toNat := workDone_of_phase hp
  obtain ⟨-, rfl⟩ | ⟨hrejected, rfl⟩ := execFilter_next_inv hu
  · refine .inr (onward_of_phase phEmit rfl (by decide) ?_)
    show 10 + 2 * s.plen.toNat = s.workDone + 1
    omega
  · have hresult := h.result_of_fields (between_of_phase hp (by decide))
    rw [if_neg (Bool.eq_false_iff.1 hrejected)] at hresult
    refine .inl ⟨rfl, (by decide : DropCause.filter ≠ .none), hresult, .inr
      ⟨h.headerDecoded (between_of_phase hp (by decide)), ?_, .inl rfl⟩⟩
    rw [hwork]
    show 9 + 2 * s.plen.toNat + 1 ≤ 10 + 2 * s.plen.toNat
    omega

/-! ## Every operation from GUARD to FILTER -/

/-- An operation from GUARD to FILTER ends the message with a drop or takes it one operation
further. -/
theorem exec_dropped_or_onward {i : Instr} (h : MessageInv s) (hp : s.between phGuard phFilter)
    (hdec : decode s.selector = .ok i) (hrst : s.pins.rst = false) (hu : exec i s = .next u) :
    Dropped s u ∨ Onward s u := by
  have hphase : ∀ {p : Phase}, i.phase? = some p → s.phase = p := phase_of_decode hdec
  cases i with
  | captureFirst => exact absurd (hphase rfl ▸ hp.1) (by decide)
  | capture => exact absurd (hphase rfl ▸ hp.1) (by decide)
  | emitByte => exact absurd (hphase rfl ▸ hp.2) (by decide)
  | guard => exact guard_dropped_or_onward (hphase rfl) hu
  | genG4 | genG5 =>
    cases hu
    refine .inr (onward_of_phase phHdr rfl (by decide) ?_)
    rw [workDone_of_phase (hphase rfl)]
    rfl
  | demapHdr => exact demapHdr_dropped_or_onward h (hphase rfl) hu
  | hdrParse =>
    cases hu
    refine .inr (onward_of_phase phLchk rfl (by decide) ?_)
    rw [workDone_of_phase (hphase rfl)]
    rfl
  | lchk => exact lchk_dropped_or_onward h (hphase rfl) hu
  | demapPay => exact demapPay_dropped_or_onward h (hphase rfl) hu
  | crcInit => exact crcInit_dropped_or_onward h (hphase rfl) hu
  | crcByte => exact .inr (crcByte_onward (hphase rfl) hu)
  | crcCmp =>
    cases hu
    refine .inr (onward_of_phase phExtract rfl (by decide) ?_)
    rw [workDone_of_phase (hphase rfl)]
    show 8 + 2 * s.plen.toNat = 7 + 2 * s.plen.toNat + 1
    omega
  | extractL55 =>
    have hbody : 24 ≤ s.plen.toNat := by rw [plen_of_decode_extractL55 hdec]; decide
    cases (execExtractL55_of_le hbody).symm.trans hu
    exact .inr (onward_to_filter (hphase rfl) rfl rfl)
  | extractLd5 => exact extractLd5_dropped_or_onward h (hphase rfl) (extractLd5_of_decode hdec) hu
  | extractReject =>
    obtain ⟨hnot55, hnotD5⟩ := extractReject_of_decode hdec
    cases hu
    exact .inl (dropped_in_extract h (hphase rfl) (by decide) hnot55 fun hd5 => absurd hd5 hnotD5)
  | filter => exact filter_dropped_or_onward h (hphase rfl) hu
  | reset | drop cause =>
    obtain ⟨hhigh, -⟩ | ⟨-, hi⟩ := phase?_of_decode hdec
    · exact absurd (hrst.symm.trans hhigh) (by decide)
    · cases hi

end

/-- While samples are taken the message goes on. -/
theorem phase_after_capture {s t : State} (hrst : s.pins.rst = false) (hp : s.phase = phCapture)
    (h : step s = .next t) : t.phase ≠ phIdle := by
  have hsample : ∀ last, phaseAfterSample last ≠ phIdle := by decide
  obtain ⟨u, hexec, rfl⟩ := runsIn_capture.next_inv hrst hp h
  obtain ⟨-, -, rfl⟩ | ⟨-, -, rfl⟩ | ⟨-, rfl⟩ := execCapture_next_inv hexec
  · exact hsample _
  · exact hsample _
  · rw [advance_phase, hp]
    decide

/-- Settles O47: in CAPTURE the message goes on, and of the operations from GUARD to FILTER only one
that drops the message leads to IDLE. -/
theorem dropOnlyWhereDecodeGivesNone : Obligations.DropOnlyWhereDecodeGivesNone := by
  intro s t hinv hrst hidle hemit hstep hend
  have hcases : ∀ p : Phase, p ≤ phEmit → p ≠ phIdle → p ≠ phEmit →
      p = phCapture ∨ phGuard ≤ p ∧ p ≤ phFilter := by decide
  obtain hcapture | hbusy := hcases s.phase hinv.message.legalPhase hidle hemit
  · exact absurd hend (phase_after_capture hrst hcapture hstep)
  obtain ⟨i, u, hdec, hexec, rfl⟩ := step_next_inv hstep
  obtain hdropped | honward := exec_dropped_or_onward hinv.message hbusy hdec hrst hexec
  · exact ⟨hdropped.result, hdropped.cause⟩
  · have hlow : phGen ≤ phIdle := honward.phase.1.trans_eq hend
    exact absurd hlow (by decide)

/-! ## Processing ends -/

/-- The work done stays below the bound of the longest message. -/
theorem workDone_le {s : State} (h : MessageInv s) : s.workDone ≤ 10 + 2 * lMax := by
  have hlen : s.plen.toNat ≤ lMax := Nat.le_of_lt_succ s.plen.isLt
  have hat : ∀ {p q : Phase}, p.toNat = q.toNat → p = q := BitVec.eq_of_toNat_eq
  unfold State.workDone
  split
  case h_2 hp =>
    obtain ⟨hk, -⟩ := h.headerByte (hat hp)
    unfold hdrLen at hk
    omega
  case h_5 hp =>
    obtain ⟨-, hk, -⟩ := h.bodyByte (hat hp)
    unfold State.decLen hdrLen at hk
    omega
  case h_7 hp =>
    obtain ⟨-, hk, -⟩ := h.crcRunning (hat hp)
    omega
  all_goals omega

/-- Outside EMIT no byte is sent. -/
theorem step_outbox_kept {s t : State} (hp : s.phase ≠ phEmit) (h : step s = .next t) :
    t.outbox = s.outbox := by
  obtain ⟨i, u, hdec, hexec, rfl⟩ := step_next_inv h
  refine (exec_storageEffect hexec).outbox.resolve_right ?_
  rintro ⟨rfl, -, -⟩
  exact hp (phase_of_decode hdec rfl)

/-- The processing of a message ends: `left` covers the work still to be done. -/
theorem exists_finished {s : State} {left : Nat} (hinv : Inv s) (hp : s.between phGuard phEmit)
    (hs : s.noReset) (hleft : 10 + 2 * lMax < s.workDone + left) :
    ∃ count t, steps count s = .next t ∧ t.outbox = s.outbox ∧ Finished (s.workDone + count) t := by
  induction left generalizing s with
  | zero => exact absurd (workDone_le hinv.message) (not_le.2 hleft)
  | succ left ih =>
    by_cases hemit : s.phase = phEmit
    · have hwork : s.workDone = s.workBound := workDone_of_phase hemit
      have hheader := hinv.message.headerDecoded (between_of_phase hemit (by decide))
      exact ⟨0, s, rfl, rfl, .inr ⟨hheader, hwork.le, .inr ⟨hemit, hwork⟩⟩⟩
    have hcases : ∀ p : Phase, phGuard ≤ p ∧ p ≤ phEmit → p ≠ phEmit →
        phGuard ≤ p ∧ p ≤ phFilter := by decide
    obtain ⟨t, hstep⟩ := invariantStatesNeverFault s hinv
    have hout := step_outbox_kept hemit hstep
    have hinv' := stepKeepsInvariant s t hinv hstep
    have hs' := step_noReset hs hstep
    obtain ⟨i, u, hdec, hexec, rfl⟩ := step_next_inv hstep
    obtain hdropped | honward :=
      exec_dropped_or_onward hinv.message (hcases s.phase hp hemit) hdec hs.1 hexec
    · exact ⟨1, u.advance, steps_succ_of_step hstep, hout, hdropped.finished⟩
    · have hwork : u.advance.workDone = s.workDone + 1 := honward.work
      obtain ⟨count, t, hrun, hsent, hfinished⟩ :=
        ih hinv' (between_of_le honward.phase (by decide)) hs' (by omega)
      refine ⟨count + 1, t, (steps_succ_of_step hstep).trans hrun, hsent.trans hout, ?_⟩
      rwa [hwork, Nat.add_assoc, Nat.add_comm 1] at hfinished

/-- Settles O48: in GUARD no work has been done. -/
theorem processingEndsWithinWorkBound : Obligations.ProcessingEndsWithinWorkBound := by
  intro s hinv hp hs
  have hwork : s.workDone = 0 := workDone_of_phase hp
  obtain ⟨count, t, hrun, hout, hfinished⟩ := exists_finished (left := 11 + 2 * lMax) hinv
    (between_of_phase hp (by decide)) hs (by omega)
  rw [hwork, Nat.zero_add] at hfinished
  obtain hshort | ⟨⟨hbytes, hlen⟩, hbound, hend⟩ := hfinished
  · exact ⟨count, t, hrun, hout, .inl hshort⟩
  · exact ⟨count, t, hrun, hout, .inr ⟨hbytes, hlen, hbound, hend⟩⟩

end Sys2Proof.Machine
end

section
/-!
PROOF. Writers (spec/10_state.md sections 2 to 5, spec/60_exceptions.md R171): which operation
writes each register, each cell and each drop cause.
-/

namespace Sys2Proof.Machine

/-- Settles O30: the outcomes of an operation, listed by its inversion lemma, name every register
that it writes. -/
theorem registersHaveTheirWriters : Obligations.RegistersHaveTheirWriters := by
  intro i s t h
  cases i with
  | captureFirst =>
    obtain ⟨-, rfl⟩ | ⟨-, rfl⟩ := execCaptureFirst_next_inv h <;> simp
  | capture =>
    obtain ⟨-, -, rfl⟩ | ⟨-, -, rfl⟩ | ⟨-, rfl⟩ := execCapture_next_inv h <;> simp
  | guard => obtain ⟨-, rfl⟩ | ⟨-, rfl⟩ := execGuard_next_inv h <;> simp
  | demapHdr => obtain ⟨-, rfl⟩ | ⟨-, -, -, rfl⟩ := execDemapHdr_next_inv h <;> simp
  | lchk => obtain ⟨-, rfl⟩ | ⟨-, rfl⟩ := execLchk_next_inv h <;> simp
  | demapPay => obtain ⟨-, rfl⟩ | ⟨-, -, -, rfl⟩ := execDemapPay_next_inv h <;> simp
  | crcInit => obtain ⟨-, rfl⟩ | ⟨-, rfl⟩ := execCrcInit_next_inv h <;> simp
  | crcByte => obtain ⟨-, rfl⟩ := execCrcByte_next_inv h; simp
  | extractL55 =>
    obtain ⟨-, rfl⟩ | ⟨-, -, rfl⟩ | ⟨-, rfl⟩ := execExtractL55_next_inv h <;> simp
  | extractLd5 => obtain ⟨-, rfl⟩ | ⟨-, rfl⟩ := execExtractLd5_next_inv h <;> simp
  | filter => obtain ⟨-, rfl⟩ | ⟨-, rfl⟩ := execFilter_next_inv h <;> simp
  | emitByte =>
    obtain ⟨-, -, -, rfl⟩ | ⟨-, -, -, rfl⟩ | ⟨-, rfl⟩ := execEmitByte_next_inv h <;> simp
  | genG4 | genG5 | hdrParse | crcCmp | extractReject | reset | drop cause =>
    cases h
    simp

/-- Settles O31: `exec_storageEffect` has the one cell that an operation writes, and every other
cell reads as before. -/
theorem cellsHaveTheirWriters : Obligations.CellsHaveTheirWriters := by
  intro i s t h
  obtain ⟨hraw, -, hdec, -⟩ := exec_storageEffect h
  constructor
  · intro a hfirst hcapture
    obtain hkept | ⟨cell, -, ⟨rfl, rfl⟩ | ⟨rfl, rfl⟩, hwrite⟩ := hraw
    · exact rawCell_congr hkept a
    · exact (rawCell_of_write hwrite).2 a (hfirst rfl)
    · exact (rawCell_of_write hwrite).2 a (hcapture rfl)
  · intro a hdemap
    obtain hkept | ⟨hi, -, hwrite⟩ := hdec
    · exact decCell_congr hkept a
    · exact (decCell_of_write hwrite).2 a (hdemap hi)

/-- Settles O32: each operation has one cause in its drops, and no other outcome but that of
CAPTURE_FIRST and RESET touches `DROP_CAUSE`. The premise leaves EXTRACT_L55 no drop. -/
theorem dropCausesHaveTheirRaisers : Obligations.DropCausesHaveTheirRaisers := by
  refine ⟨rfl, fun i s t h hlen => ?_⟩
  cases i with
  | captureFirst => obtain ⟨-, rfl⟩ | ⟨-, rfl⟩ := execCaptureFirst_next_inv h <;> simp
  | capture =>
    obtain ⟨-, -, rfl⟩ | ⟨-, -, rfl⟩ | ⟨-, rfl⟩ := execCapture_next_inv h <;> simp
  | guard => obtain ⟨-, rfl⟩ | ⟨-, rfl⟩ := execGuard_next_inv h <;> simp
  | demapHdr => obtain ⟨-, rfl⟩ | ⟨-, -, -, rfl⟩ := execDemapHdr_next_inv h <;> simp
  | lchk => obtain ⟨-, rfl⟩ | ⟨-, rfl⟩ := execLchk_next_inv h <;> simp
  | demapPay => obtain ⟨-, rfl⟩ | ⟨-, -, -, rfl⟩ := execDemapPay_next_inv h <;> simp
  | crcInit => obtain ⟨-, rfl⟩ | ⟨-, rfl⟩ := execCrcInit_next_inv h <;> simp
  | crcByte => obtain ⟨-, rfl⟩ := execCrcByte_next_inv h; simp
  | extractL55 =>
    cases (execExtractL55_of_le (hlen rfl)).symm.trans h
    simp
  | extractLd5 => obtain ⟨-, rfl⟩ | ⟨-, rfl⟩ := execExtractLd5_next_inv h <;> simp
  | filter => obtain ⟨-, rfl⟩ | ⟨-, rfl⟩ := execFilter_next_inv h <;> simp
  | emitByte =>
    obtain ⟨-, -, -, rfl⟩ | ⟨-, -, -, rfl⟩ | ⟨-, rfl⟩ := execEmitByte_next_inv h <;> simp
  | genG4 | genG5 | hdrParse | crcCmp | extractReject | reset | drop cause =>
    cases h
    simp

end Sys2Proof.Machine
end

section
/-!
PROOF. The ports while `rst` is asserted and while a byte is held (spec/70_reset_and_hazards.md
R190, R198).
-/

namespace Sys2Proof.Machine

/-- Settles O8: the pin comes before every row, and with it high no beat can pass. -/
theorem resetLoadsConfiguration : Obligations.ResetLoadsConfiguration := by
  refine fun s => ⟨rfl, fun hrst => ?_⟩
  have hdec : decode s.selector = .ok .reset := if_pos hrst
  have hready : s.sReady = false := by rw [State.sReady, hrst]; rfl
  have hvalid : s.mValid = false := by rw [State.mValid, hrst]; rfl
  refine ⟨by rw [step, hdec], hready, hvalid, ?_, ?_⟩
  · rw [State.inputBeat, hready, Bool.and_false]
  · rw [State.outputBeat, hvalid, Bool.and_false, Bool.false_and]

/-- Settles O27: without a beat EMIT_BYTE holds, and moving to the next edge touches nothing that
the block drives. -/
theorem outputsStableWhileHeld : Obligations.OutputsStableWhileHeld := by
  intro s t hvalid hbeat hstep hrst
  obtain ⟨hnow, hp⟩ := (mValid_iff s).1 hvalid
  obtain ⟨u, hexec, rfl⟩ := runsIn_emitByte.next_inv hnow hp hstep
  cases (execEmitByte_of_noBeat hbeat).symm.trans hexec
  have hstill : s.advance.mValid = true := (mValid_iff _).2 ⟨hrst, hp⟩
  refine ⟨hstill, ?_⟩
  rw [outBus_of_mValid hstill, outBus_of_mValid hvalid]
  rfl

end Sys2Proof.Machine
end
